-- ==== Sys2Proof/Word.lean ====
section
/-! DEFINITION. The word types of the engine (spec/00_scope.md R6): registers, addresses and immediates are 32-bit
vectors, memory is made of 8-bit bytes. -/

namespace Sys2Proof

/-- A 32-bit value: a data or address register, the program counter, an address, an immediate (R20, R21, R24, R97). -/
abbrev Word := BitVec 32

/-- One byte of data memory (R33). -/
abbrev Byte := BitVec 8

end Sys2Proof
end

