-- ==== Sys2Proof/Config.lean ====
section
/-! DEFINITION. The fixed parameters of the engine (spec/00_scope.md R5) and the two points the spec leaves open that
each implementation decides: those two are constants with no body, so that no proof can lean on a value of them.
What a construction chooses (`MEM_SIZE`, `MISALIGNED`, the history options, the program) is data of the state. -/

namespace Sys2Proof.Config

/-- The default memory size (R5, spec/90_conflicts.md C1). -/
def defaultMemSize : Nat := 0x1000000

/-- The default memory size fits the 32-bit address space: the largest `MEM_SIZE` (R361). -/
def maxMemSize : Nat := 2 ^ 32

/-- `ReadKeyboardString` stores at most this many bytes (R303). -/
def keyboardLimit : Nat := 80

/-- The one trap vector (R290). -/
def trapVector : Nat := 15

/-- Free (R329: "Whether `sp` is taken before or after the return address is pushed is not stated"; log 17). -/
opaque callSnapshotAfterPush : Bool

/-- Free (R330: whether a breakpoint on the very first instruction of a call halts before it "is not stated"; log 18). -/
opaque breakpointOnFirst : Bool

end Sys2Proof.Config
end

