-- ==== Sys2Proof/Syntax.lean ====
section
/-! DEFINITION. The instruction set as syntax (spec/30_encoding.md): sizes, conditions, registers, operand forms, and one
constructor of `Instr` for each row of spec/opcode_table.json. Operands keep the five tagged forms of R96, whatever the
instruction admits; what is admitted is `Shape.admitted` (WellFormed.lean). -/

namespace Sys2Proof

/-- Operation size (R7, R94). -/
inductive Size where
  | B | W | L
  deriving DecidableEq, Repr

/-- `bits(sz)` of R7. -/
abbrev Size.bits : Size → Nat
  | .B => 8
  | .W => 16
  | .L => 32

/-- `bytes(sz)` of R7. -/
abbrev Size.bytes : Size → Nat
  | .B => 1
  | .W => 2
  | .L => 4

/-- The sixteen conditions, in the order of R95. -/
inductive Cond where
  | t | f | hi | ls | cc | cs | ne | eq | vc | vs | pl | mi | ge | lt | gt | le
  deriving DecidableEq, Repr

/-- A register operand, tagged `Data(0..=7) | Address(0..=7)` (R98). -/
inductive Reg where
  | data (n : Fin 8)
  | addr (n : Fin 8)
  deriving DecidableEq, Repr

/-- `A7`, the stack pointer (R21). -/
abbrev Reg.sp : Reg := .addr 7

/-- The width of an index register that takes part in the address (R100). -/
inductive IndexSize where
  | word | long
  deriving DecidableEq, Repr

/-- The index part of `d(An, Xn.s)` (R100). -/
structure IndexSpec where
  reg  : Reg
  size : IndexSize
  deriving DecidableEq, Repr

/-- The `mode` field of an indirect operand (R96). -/
inductive IndirectMode where
  | plain | pre | post
  deriving DecidableEq, Repr

/-- A `RuntimeOperand`: the five tagged forms of R96. The displacement is the two's complement image of the signed
32-bit value (R99). -/
inductive Operand where
  | immediate (v : Word)
  | register (r : Reg)
  | indirect (base : Fin 8) (displacement : Word) (index : Option IndexSpec) (mode : IndirectMode)
  | absolute (addr : Word)
  | address (target : Word)
  deriving DecidableEq, Repr

/-- The operands of a shift or rotate: count and destination, or one memory operand (R103, R225). -/
inductive ShiftArgs where
  | counted (count dst : Operand)
  | memory (dst : Operand)
  deriving DecidableEq, Repr

/-- The six shifts and rotates (R227 to R232). -/
inductive ShiftOp where
  | asl | asr | lsl | lsr | rol | ror
  deriving DecidableEq, Repr

/-- The four bit instructions (R241 to R244). -/
inductive BitOp where
  | tst | chg | clr | set
  deriving DecidableEq, Repr

/-- The instructions: one constructor for each row of spec/opcode_table.json (R93, R103). -/
inductive Instr where
  | moveB (src dst : Operand)
  | moveW (src dst : Operand)
  | moveL (src dst : Operand)
  | moveqL (src dst : Operand)
  | addB (src dst : Operand)
  | addW (src dst : Operand)
  | addL (src dst : Operand)
  | addqB (src dst : Operand)
  | addqW (src dst : Operand)
  | addqL (src dst : Operand)
  | addaW (src dst : Operand)
  | addaL (src dst : Operand)
  | subB (src dst : Operand)
  | subW (src dst : Operand)
  | subL (src dst : Operand)
  | subqB (src dst : Operand)
  | subqW (src dst : Operand)
  | subqL (src dst : Operand)
  | subaW (src dst : Operand)
  | subaL (src dst : Operand)
  | cmpB (src dst : Operand)
  | cmpW (src dst : Operand)
  | cmpL (src dst : Operand)
  | tstB (dst : Operand)
  | tstW (dst : Operand)
  | tstL (dst : Operand)
  | mulsW (src dst : Operand)
  | muluW (src dst : Operand)
  | divsW (src dst : Operand)
  | divuW (src dst : Operand)
  | andB (src dst : Operand)
  | andW (src dst : Operand)
  | andL (src dst : Operand)
  | orB (src dst : Operand)
  | orW (src dst : Operand)
  | orL (src dst : Operand)
  | eorB (src dst : Operand)
  | eorW (src dst : Operand)
  | eorL (src dst : Operand)
  | notB (dst : Operand)
  | notW (dst : Operand)
  | notL (dst : Operand)
  | aslB (args : ShiftArgs)
  | aslW (args : ShiftArgs)
  | aslL (args : ShiftArgs)
  | asrB (args : ShiftArgs)
  | asrW (args : ShiftArgs)
  | asrL (args : ShiftArgs)
  | lslB (args : ShiftArgs)
  | lslW (args : ShiftArgs)
  | lslL (args : ShiftArgs)
  | lsrB (args : ShiftArgs)
  | lsrW (args : ShiftArgs)
  | lsrL (args : ShiftArgs)
  | rolB (args : ShiftArgs)
  | rolW (args : ShiftArgs)
  | rolL (args : ShiftArgs)
  | rorB (args : ShiftArgs)
  | rorW (args : ShiftArgs)
  | rorL (args : ShiftArgs)
  | negB (dst : Operand)
  | negW (dst : Operand)
  | negL (dst : Operand)
  | extW (dst : Operand)
  | extL (dst : Operand)
  | swapW (dst : Operand)
  | btstL (bitnum dst : Operand)
  | btstB (bitnum dst : Operand)
  | bclrL (bitnum dst : Operand)
  | bclrB (bitnum dst : Operand)
  | bsetL (bitnum dst : Operand)
  | bsetB (bitnum dst : Operand)
  | bchgL (bitnum dst : Operand)
  | bchgB (bitnum dst : Operand)
  | bt (target : Operand)
  | bf (target : Operand)
  | bhi (target : Operand)
  | bls (target : Operand)
  | bcc (target : Operand)
  | bcs (target : Operand)
  | bne (target : Operand)
  | beq (target : Operand)
  | bvc (target : Operand)
  | bvs (target : Operand)
  | bpl (target : Operand)
  | bmi (target : Operand)
  | bge (target : Operand)
  | blt (target : Operand)
  | bgt (target : Operand)
  | ble (target : Operand)
  | bra (target : Operand)
  | bsr (target : Operand)
  | jsr (target : Operand)
  | rts
  | dbtW (counter target : Operand)
  | dbfW (counter target : Operand)
  | dbhiW (counter target : Operand)
  | dblsW (counter target : Operand)
  | dbccW (counter target : Operand)
  | dbcsW (counter target : Operand)
  | dbneW (counter target : Operand)
  | dbeqW (counter target : Operand)
  | dbvcW (counter target : Operand)
  | dbvsW (counter target : Operand)
  | dbplW (counter target : Operand)
  | dbmiW (counter target : Operand)
  | dbgeW (counter target : Operand)
  | dbltW (counter target : Operand)
  | dbgtW (counter target : Operand)
  | dbleW (counter target : Operand)
  | stB (dst : Operand)
  | sfB (dst : Operand)
  | shiB (dst : Operand)
  | slsB (dst : Operand)
  | sccB (dst : Operand)
  | scsB (dst : Operand)
  | sneB (dst : Operand)
  | seqB (dst : Operand)
  | svcB (dst : Operand)
  | svsB (dst : Operand)
  | splB (dst : Operand)
  | smiB (dst : Operand)
  | sgeB (dst : Operand)
  | sltB (dst : Operand)
  | sgtB (dst : Operand)
  | sleB (dst : Operand)
  | leaL (src dst : Operand)
  | peaL (src : Operand)
  | link (reg disp : Operand)
  | unlk (reg : Operand)
  | movemWStore (reglist : BitVec 16) (dst : Operand)
  | movemLStore (reglist : BitVec 16) (dst : Operand)
  | movemWLoad (src : Operand) (reglist : BitVec 16)
  | movemLLoad (src : Operand) (reglist : BitVec 16)
  | trap (vector : Operand)
  deriving DecidableEq, Repr

/-- What the forms of an instruction depend on: its family and its operands (one constructor per row of R103's table,
instructions of equal operand rules together). -/
inductive Shape where
  | move (sz : Size) (src dst : Operand)
  | moveq (src dst : Operand)
  | addSub (sz : Size) (src dst : Operand)
  | toAddr (sz : Size) (src dst : Operand)
  | quick (sz : Size) (src dst : Operand)
  | compare (sz : Size) (src dst : Operand)
  | unary (sz : Size) (dst : Operand)
  | andOr (sz : Size) (src dst : Operand)
  | eor (sz : Size) (src dst : Operand)
  | mulDiv (src dst : Operand)
  | dataReg (dst : Operand)
  | shift (sz : Size) (args : ShiftArgs)
  | bit (sz : Size) (bitnum dst : Operand)
  | setByte (dst : Operand)
  | branch (target : Operand)
  | jump (target : Operand)
  | bare
  | decBranch (counter target : Operand)
  | loadAddr (src dst : Operand)
  | pushAddr (src : Operand)
  | link (reg disp : Operand)
  | unlink (reg : Operand)
  | storeRegs (sz : Size) (reglist : BitVec 16) (dst : Operand)
  | loadRegs (sz : Size) (src : Operand) (reglist : BitVec 16)
  | trap (vector : Operand)
  deriving DecidableEq, Repr

/-- The shape of each instruction. -/
def Instr.shape : Instr → Shape
  | .moveB src dst => .move .B src dst
  | .moveW src dst => .move .W src dst
  | .moveL src dst => .move .L src dst
  | .moveqL src dst => .moveq src dst
  | .addB src dst => .addSub .B src dst
  | .addW src dst => .addSub .W src dst
  | .addL src dst => .addSub .L src dst
  | .addqB src dst => .quick .B src dst
  | .addqW src dst => .quick .W src dst
  | .addqL src dst => .quick .L src dst
  | .addaW src dst => .toAddr .W src dst
  | .addaL src dst => .toAddr .L src dst
  | .subB src dst => .addSub .B src dst
  | .subW src dst => .addSub .W src dst
  | .subL src dst => .addSub .L src dst
  | .subqB src dst => .quick .B src dst
  | .subqW src dst => .quick .W src dst
  | .subqL src dst => .quick .L src dst
  | .subaW src dst => .toAddr .W src dst
  | .subaL src dst => .toAddr .L src dst
  | .cmpB src dst => .compare .B src dst
  | .cmpW src dst => .compare .W src dst
  | .cmpL src dst => .compare .L src dst
  | .tstB dst => .unary .B dst
  | .tstW dst => .unary .W dst
  | .tstL dst => .unary .L dst
  | .mulsW src dst => .mulDiv src dst
  | .muluW src dst => .mulDiv src dst
  | .divsW src dst => .mulDiv src dst
  | .divuW src dst => .mulDiv src dst
  | .andB src dst => .andOr .B src dst
  | .andW src dst => .andOr .W src dst
  | .andL src dst => .andOr .L src dst
  | .orB src dst => .andOr .B src dst
  | .orW src dst => .andOr .W src dst
  | .orL src dst => .andOr .L src dst
  | .eorB src dst => .eor .B src dst
  | .eorW src dst => .eor .W src dst
  | .eorL src dst => .eor .L src dst
  | .notB dst => .unary .B dst
  | .notW dst => .unary .W dst
  | .notL dst => .unary .L dst
  | .aslB args => .shift .B args
  | .aslW args => .shift .W args
  | .aslL args => .shift .L args
  | .asrB args => .shift .B args
  | .asrW args => .shift .W args
  | .asrL args => .shift .L args
  | .lslB args => .shift .B args
  | .lslW args => .shift .W args
  | .lslL args => .shift .L args
  | .lsrB args => .shift .B args
  | .lsrW args => .shift .W args
  | .lsrL args => .shift .L args
  | .rolB args => .shift .B args
  | .rolW args => .shift .W args
  | .rolL args => .shift .L args
  | .rorB args => .shift .B args
  | .rorW args => .shift .W args
  | .rorL args => .shift .L args
  | .negB dst => .unary .B dst
  | .negW dst => .unary .W dst
  | .negL dst => .unary .L dst
  | .extW dst => .dataReg dst
  | .extL dst => .dataReg dst
  | .swapW dst => .dataReg dst
  | .btstL bitnum dst => .bit .L bitnum dst
  | .btstB bitnum dst => .bit .B bitnum dst
  | .bclrL bitnum dst => .bit .L bitnum dst
  | .bclrB bitnum dst => .bit .B bitnum dst
  | .bsetL bitnum dst => .bit .L bitnum dst
  | .bsetB bitnum dst => .bit .B bitnum dst
  | .bchgL bitnum dst => .bit .L bitnum dst
  | .bchgB bitnum dst => .bit .B bitnum dst
  | .bt target => .branch target
  | .bf target => .branch target
  | .bhi target => .branch target
  | .bls target => .branch target
  | .bcc target => .branch target
  | .bcs target => .branch target
  | .bne target => .branch target
  | .beq target => .branch target
  | .bvc target => .branch target
  | .bvs target => .branch target
  | .bpl target => .branch target
  | .bmi target => .branch target
  | .bge target => .branch target
  | .blt target => .branch target
  | .bgt target => .branch target
  | .ble target => .branch target
  | .bra target => .branch target
  | .bsr target => .branch target
  | .jsr target => .jump target
  | .rts => .bare
  | .dbtW counter target => .decBranch counter target
  | .dbfW counter target => .decBranch counter target
  | .dbhiW counter target => .decBranch counter target
  | .dblsW counter target => .decBranch counter target
  | .dbccW counter target => .decBranch counter target
  | .dbcsW counter target => .decBranch counter target
  | .dbneW counter target => .decBranch counter target
  | .dbeqW counter target => .decBranch counter target
  | .dbvcW counter target => .decBranch counter target
  | .dbvsW counter target => .decBranch counter target
  | .dbplW counter target => .decBranch counter target
  | .dbmiW counter target => .decBranch counter target
  | .dbgeW counter target => .decBranch counter target
  | .dbltW counter target => .decBranch counter target
  | .dbgtW counter target => .decBranch counter target
  | .dbleW counter target => .decBranch counter target
  | .stB dst => .setByte dst
  | .sfB dst => .setByte dst
  | .shiB dst => .setByte dst
  | .slsB dst => .setByte dst
  | .sccB dst => .setByte dst
  | .scsB dst => .setByte dst
  | .sneB dst => .setByte dst
  | .seqB dst => .setByte dst
  | .svcB dst => .setByte dst
  | .svsB dst => .setByte dst
  | .splB dst => .setByte dst
  | .smiB dst => .setByte dst
  | .sgeB dst => .setByte dst
  | .sltB dst => .setByte dst
  | .sgtB dst => .setByte dst
  | .sleB dst => .setByte dst
  | .leaL src dst => .loadAddr src dst
  | .peaL src => .pushAddr src
  | .link reg disp => .link reg disp
  | .unlk reg => .unlink reg
  | .movemWStore reglist dst => .storeRegs .W reglist dst
  | .movemLStore reglist dst => .storeRegs .L reglist dst
  | .movemWLoad src reglist => .loadRegs .W src reglist
  | .movemLLoad src reglist => .loadRegs .L src reglist
  | .trap vector => .trap vector

/-! Selectors: the constructor of a family at a size, a condition or an operation. A family that lacks a size answers
with a neighbour there, and no statement uses it at that size. -/

/-- MOVE at a size (R170). -/
def Instr.move : Size → Operand → Operand → Instr
  | .B => .moveB
  | .W => .moveW
  | .L => .moveL

/-- ADD at a size (R182). -/
def Instr.add : Size → Operand → Operand → Instr
  | .B => .addB
  | .W => .addW
  | .L => .addL

/-- ADDQ at a size (R184). -/
def Instr.addq : Size → Operand → Operand → Instr
  | .B => .addqB
  | .W => .addqW
  | .L => .addqL

/-- ADDA at `W` or `L` (R183). -/
def Instr.adda : Size → Operand → Operand → Instr
  | .B => .addaW
  | .W => .addaW
  | .L => .addaL

/-- SUB at a size (R185). -/
def Instr.sub : Size → Operand → Operand → Instr
  | .B => .subB
  | .W => .subW
  | .L => .subL

/-- SUBQ at a size (R187). -/
def Instr.subq : Size → Operand → Operand → Instr
  | .B => .subqB
  | .W => .subqW
  | .L => .subqL

/-- SUBA at `W` or `L` (R186). -/
def Instr.suba : Size → Operand → Operand → Instr
  | .B => .subaW
  | .W => .subaW
  | .L => .subaL

/-- CMP at a size (R188). -/
def Instr.cmp : Size → Operand → Operand → Instr
  | .B => .cmpB
  | .W => .cmpW
  | .L => .cmpL

/-- TST at a size (R189). -/
def Instr.tst : Size → Operand → Instr
  | .B => .tstB
  | .W => .tstW
  | .L => .tstL

/-- NEG at a size (R190). -/
def Instr.neg : Size → Operand → Instr
  | .B => .negB
  | .W => .negW
  | .L => .negL

/-- AND at a size (R211). -/
def Instr.and : Size → Operand → Operand → Instr
  | .B => .andB
  | .W => .andW
  | .L => .andL

/-- OR at a size (R212). -/
def Instr.or : Size → Operand → Operand → Instr
  | .B => .orB
  | .W => .orW
  | .L => .orL

/-- EOR at a size (R213). -/
def Instr.eor : Size → Operand → Operand → Instr
  | .B => .eorB
  | .W => .eorW
  | .L => .eorL

/-- NOT at a size (R214). -/
def Instr.not : Size → Operand → Instr
  | .B => .notB
  | .W => .notW
  | .L => .notL

/-- The shifts and rotates at a size (R227 to R232). -/
def Instr.shifted : ShiftOp → Size → ShiftArgs → Instr
  | .asl, .B => .aslB
  | .asl, .W => .aslW
  | .asl, .L => .aslL
  | .asr, .B => .asrB
  | .asr, .W => .asrW
  | .asr, .L => .asrL
  | .lsl, .B => .lslB
  | .lsl, .W => .lslW
  | .lsl, .L => .lslL
  | .lsr, .B => .lsrB
  | .lsr, .W => .lsrW
  | .lsr, .L => .lsrL
  | .rol, .B => .rolB
  | .rol, .W => .rolW
  | .rol, .L => .rolL
  | .ror, .B => .rorB
  | .ror, .W => .rorW
  | .ror, .L => .rorL

/-- The bit instructions on a data register, size `L` (R240). -/
def Instr.bitOnReg : BitOp → Operand → Operand → Instr
  | .tst => .btstL
  | .chg => .bchgL
  | .clr => .bclrL
  | .set => .bsetL

/-- The bit instructions on a memory byte, size `B` (R240). -/
def Instr.bitOnByte : BitOp → Operand → Operand → Instr
  | .tst => .btstB
  | .chg => .bchgB
  | .clr => .bclrB
  | .set => .bsetB

/-- `Bcc` for a condition (R251). -/
def Instr.branchOn : Cond → Operand → Instr
  | .t => .bt
  | .f => .bf
  | .hi => .bhi
  | .ls => .bls
  | .cc => .bcc
  | .cs => .bcs
  | .ne => .bne
  | .eq => .beq
  | .vc => .bvc
  | .vs => .bvs
  | .pl => .bpl
  | .mi => .bmi
  | .ge => .bge
  | .lt => .blt
  | .gt => .bgt
  | .le => .ble

/-- `DBcc` for a condition (R256). -/
def Instr.decBranchOn : Cond → Operand → Operand → Instr
  | .t => .dbtW
  | .f => .dbfW
  | .hi => .dbhiW
  | .ls => .dblsW
  | .cc => .dbccW
  | .cs => .dbcsW
  | .ne => .dbneW
  | .eq => .dbeqW
  | .vc => .dbvcW
  | .vs => .dbvsW
  | .pl => .dbplW
  | .mi => .dbmiW
  | .ge => .dbgeW
  | .lt => .dbltW
  | .gt => .dbgtW
  | .le => .dbleW

/-- `Scc` for a condition (R257). -/
def Instr.setOn : Cond → Operand → Instr
  | .t => .stB
  | .f => .sfB
  | .hi => .shiB
  | .ls => .slsB
  | .cc => .sccB
  | .cs => .scsB
  | .ne => .sneB
  | .eq => .seqB
  | .vc => .svcB
  | .vs => .svsB
  | .pl => .splB
  | .mi => .smiB
  | .ge => .sgeB
  | .lt => .sltB
  | .gt => .sgtB
  | .le => .sleB

/-- MOVEM, registers to memory, at `W` or `L` (R279). -/
def Instr.movemStore : Size → BitVec 16 → Operand → Instr
  | .L => .movemLStore
  | _ => .movemWStore

/-- MOVEM, memory to registers, at `W` or `L` (R280). -/
def Instr.movemLoad : Size → Operand → BitVec 16 → Instr
  | .L => .movemLLoad
  | _ => .movemWLoad

end Sys2Proof
end

