-- ==== Sys2Proof/WellFormed.lean ====
section
/-! DEFINITION. The admitted forms (spec/30_encoding.md R103) and the forms the spec calls illegal with a stated fault
(R104 (a), (b)). Every other form is refused (R104 (c)). -/

namespace Sys2Proof

/-- The addressing-mode names of R96; `disp` is both `(An)` and `d(An)`, which one form carries (R137), and `malformed`
is a predecrement or postincrement with a displacement or an index, which no syntax yields (R99). -/
inductive Mode where
  | imm | dn | an | postinc | predec | disp | indexed | abs | target | malformed
  deriving DecidableEq, Repr

/-- The mode of an operand (R96, R99). -/
def Operand.mode : Operand → Mode
  | .immediate _ => .imm
  | .register (.data _) => .dn
  | .register (.addr _) => .an
  | .indirect _ _ none .plain => .disp
  | .indirect _ _ (some _) .plain => .indexed
  | .indirect _ d none .pre => if d = 0 then .predec else .malformed
  | .indirect _ d none .post => if d = 0 then .postinc else .malformed
  | .indirect _ _ (some _) .pre => .malformed
  | .indirect _ _ (some _) .post => .malformed
  | .absolute _ => .abs
  | .address _ => .target

/-- `#imm`. -/
def Operand.isImm (o : Operand) : Bool := o.mode = .imm

/-- `Dn`. -/
def Operand.isDn (o : Operand) : Bool := o.mode = .dn

/-- `An`. -/
def Operand.isAn (o : Operand) : Bool := o.mode = .an

/-- `tgt`, a branch target. -/
def Operand.isTarget (o : Operand) : Bool := o.mode = .target

/-- `MEMALT` of R103. -/
def Operand.isMemAlt (o : Operand) : Bool :=
  match o.mode with
  | .postinc | .predec | .disp | .indexed | .abs => true
  | .imm | .dn | .an | .target | .malformed => false

/-- `DATAALT` of R103. -/
def Operand.isDataAlt (o : Operand) : Bool := o.isDn || o.isMemAlt

/-- `DATA` of R103. -/
def Operand.isData (o : Operand) : Bool := o.isDataAlt || o.isImm

/-- `ALL` of R103, at a size: "`An` as an operand needs size `W` or `L`". -/
def Operand.isAll (sz : Size) (o : Operand) : Bool := o.isData || (o.isAn && sz != .B)

/-- `CTRL` of R103. -/
def Operand.isCtrl (o : Operand) : Bool :=
  match o.mode with
  | .disp | .indexed | .abs => true
  | .imm | .dn | .an | .postinc | .predec | .target | .malformed => false

/-- An immediate whose signed value lies in a range. -/
def Operand.isImmIn (lo hi : Int) : Operand → Bool
  | .immediate v => lo ≤ v.toInt && v.toInt ≤ hi
  | .register _ => false
  | .indirect _ _ _ _ => false
  | .absolute _ => false
  | .address _ => false

/-- An address register other than `A7` (R277, R278). -/
def Operand.isFrameReg : Operand → Bool
  | .register (.addr n) => n != 7
  | .register (.data _) => false
  | .immediate _ => false
  | .indirect _ _ _ _ => false
  | .absolute _ => false
  | .address _ => false

/-- Bit `8 + n` of a register list stands for `An` (R102). -/
def listsAddr (reglist : BitVec 16) (n : Fin 8) : Bool := reglist.getLsbD (8 + n.val)

/-- The base register of a predecrement or postincrement operand is in the list (R103, R279, R280). -/
def Operand.baseListed (reglist : BitVec 16) : Operand → Bool
  | .indirect n _ _ .pre => listsAddr reglist n
  | .indirect n _ _ .post => listsAddr reglist n
  | .indirect _ _ _ .plain => false
  | .immediate _ => false
  | .register _ => false
  | .absolute _ => false
  | .address _ => false

/-- R103: the forms each family admits. -/
def Shape.admitted : Shape → Bool
  | .move sz src dst => src.isAll sz && dst.isDataAlt
  | .moveq src dst => src.isImmIn (-128) 127 && dst.isDn
  | .addSub sz src dst => (src.isAll sz && dst.isDn) || (src.isDn && dst.isMemAlt)
  | .toAddr sz src dst => sz != .B && src.isAll sz && dst.isAn
  | .quick _ src dst => src.isImmIn 1 8 && dst.isDataAlt
  | .compare sz src dst => src.isAll sz && dst.isDn
  | .unary _ dst => dst.isDataAlt
  | .andOr _ src dst => (src.isData && dst.isDn) || (src.isDn && dst.isMemAlt)
  | .eor _ src dst => src.isDn && dst.isDataAlt
  | .mulDiv src dst => src.isData && dst.isDn
  | .dataReg dst => dst.isDn
  | .shift _ (.counted count dst) => (count.isImmIn 1 8 || count.isDn) && dst.isDn
  | .shift sz (.memory dst) => sz = .W && dst.isMemAlt
  | .bit sz bitnum dst => (bitnum.isImm || bitnum.isDn) && ((sz = .L && dst.isDn) || (sz = .B && dst.isMemAlt))
  | .setByte dst => dst.isDataAlt
  | .branch target => target.isTarget
  | .jump target => target.isTarget || target.isCtrl
  | .bare => true
  | .decBranch counter target => counter.isDn && target.isTarget
  | .loadAddr src dst => src.isCtrl && dst.isAn
  | .pushAddr src => src.isCtrl
  | .link reg disp => reg.isFrameReg && disp.isImm
  | .unlink reg => reg.isFrameReg
  | .storeRegs sz reglist dst => sz != .B && (dst.isCtrl || (dst.mode = .predec && !dst.baseListed reglist))
  | .loadRegs sz src reglist => sz != .B && (src.isCtrl || (src.mode = .postinc && !src.baseListed reglist))
  | .trap vector => vector = .immediate 15

/-- R104 (a): a byte-size access to an address register, in a form that would be admitted with a data register there: as
source, as destination, or as both. A destination or source that the instruction's own rule refuses, an address register or
not, stays refused: the destination of MOVE (R170) and of ADDQ and SUBQ (R184, R187), a destination of CMP other than `Dn`
(R188), a source of EOR other than `Dn` (R213). A count, a bit number, the constant of ADDQ and SUBQ, an address or a target is
no access at a size (log 6). -/
def Shape.byteOnAddr : Shape → Bool
  | .move .B src dst => src.isAn && dst.isDataAlt
  | .addSub .B src dst => (src.isAn && (dst.isDataAlt || dst.isAn)) || (src.isData && dst.isAn)
  | .compare .B src dst => src.isAn && dst.isDn
  | .unary .B dst => dst.isAn
  | .andOr .B src dst => (src.isAn && (dst.isDataAlt || dst.isAn)) || (src.isData && dst.isAn)
  | .eor .B src dst => src.isDn && dst.isAn
  | .shift .B (.counted count dst) => (count.isImmIn 1 8 || count.isDn) && dst.isAn
  | .bit .B bitnum dst => (bitnum.isImm || bitnum.isDn) && dst.isAn
  | .setByte dst => dst.isAn
  | .move _ _ _ => false
  | .moveq _ _ => false
  | .addSub _ _ _ => false
  | .toAddr _ _ _ => false
  | .quick _ _ _ => false
  | .compare _ _ _ => false
  | .unary _ _ => false
  | .andOr _ _ _ => false
  | .eor _ _ _ => false
  | .mulDiv _ _ => false
  | .dataReg _ => false
  | .shift _ _ => false
  | .bit _ _ _ => false
  | .branch _ => false
  | .jump _ => false
  | .bare => false
  | .decBranch _ _ => false
  | .loadAddr _ _ => false
  | .pushAddr _ => false
  | .link _ _ => false
  | .unlink _ => false
  | .storeRegs _ _ _ => false
  | .loadRegs _ _ _ => false
  | .trap _ => false

/-- R104 (b): a TRAP with an immediate vector other than 15. -/
def Shape.otherVector : Shape → Bool
  | .trap (.immediate v) => v != 15
  | _ => false

/-- The check on instructions: the admitted forms of R103. -/
def Instr.wellFormed (i : Instr) : Bool := i.shape.admitted

end Sys2Proof
end

