-- ==== Sys2Proof/Decode.lean ====
section
/-! DEFINITION. The instruction-table entry (spec/30_encoding.md R90, R92), its decoder and the encoder. An entry is a
16-bit descriptor with structured operands beside it; there is no binary operand encoding (R92, log 8). The decoder is
total: it answers an instruction or rejects by name. -/

namespace Sys2Proof

/-- An instruction-table entry as the fetch stage reads it: descriptor (R92), operands in assembly order, and the
register list, present for MOVEM (R90, R102). -/
structure Entry where
  descriptor : BitVec 16
  operands   : List Operand
  reglist    : Option (BitVec 16)
  deriving DecidableEq, Repr

/-- Why an entry is rejected. `noInstruction`: the descriptor denotes no instruction, which raises IllegalInstruction
when executed (R92, R104 (b)). `operandShape`: the descriptor denotes an instruction and the entry carries another number
of operands, or a register list where there is none, or none where there is one: a form outside R103, refused (R104 (c)). -/
inductive DecodeError where
  | noInstruction
  | operandShape
  deriving DecidableEq, Repr

/-- What a descriptor selects: an instruction that still lacks its operands. -/
inductive Opcode where
  | bare (i : Instr)
  | one (f : Operand → Instr)
  | two (f : Operand → Operand → Instr)
  | shift (f : ShiftArgs → Instr)
  | listFirst (f : BitVec 16 → Operand → Instr)
  | listLast (f : Operand → BitVec 16 → Instr)

/-- Bits 15:8 of the descriptor, the op tag (R92). -/
def opTag (w : BitVec 16) : Nat := w.toNat / 256

/-- Bits 7:6 of the descriptor, the size code (R94). -/
def sizeCode (w : BitVec 16) : Nat := w.toNat / 64 % 4

/-- Bits 5:4 of the descriptor, zero in every instruction (R92). -/
def zeroBits (w : BitVec 16) : Nat := w.toNat / 16 % 4

/-- Bits 3:0 of the descriptor, the condition (R95). -/
def condCode (w : BitVec 16) : Nat := w.toNat % 16

/-- An unconditional instruction of sizes `B`, `W`, `L` (size codes 00, 01, 10 of R94); `none` where it has no such size. -/
def bySize (b w l : Option Opcode) (sz cc : Nat) : Option Opcode :=
  match cc, sz with
  | 0, 0 => b
  | 0, 1 => w
  | 0, 2 => l
  | _, _ => none

/-- An unconditional instruction with no size (size code 11 of R94). -/
def unsized (o : Opcode) (sz cc : Nat) : Option Opcode :=
  match cc, sz with
  | 0, 3 => some o
  | _, _ => none

/-- The condition numbered `cc` (R95). -/
def condOf : Nat → Option Cond
  | 0 => some .t
  | 1 => some .f
  | 2 => some .hi
  | 3 => some .ls
  | 4 => some .cc
  | 5 => some .cs
  | 6 => some .ne
  | 7 => some .eq
  | 8 => some .vc
  | 9 => some .vs
  | 10 => some .pl
  | 11 => some .mi
  | 12 => some .ge
  | 13 => some .lt
  | 14 => some .gt
  | 15 => some .le
  | _ => none

/-- A conditional instruction with the given size code. -/
def byCond (code : Nat) (f : Cond → Opcode) (sz cc : Nat) : Option Opcode :=
  if sz = code then (condOf cc).map f else none

/-- The instruction an op tag, a size code and a condition field select (R93, R94, R103). -/
def opcodeOf (tag sz cc : Nat) : Option Opcode :=
  match tag with
  | 0x01 => bySize (some (.two .moveB)) (some (.two .moveW)) (some (.two .moveL)) sz cc
  | 0x02 => bySize none none (some (.two .moveqL)) sz cc
  | 0x03 => bySize (some (.two .addB)) (some (.two .addW)) (some (.two .addL)) sz cc
  | 0x04 => bySize (some (.two .addqB)) (some (.two .addqW)) (some (.two .addqL)) sz cc
  | 0x05 => bySize none (some (.two .addaW)) (some (.two .addaL)) sz cc
  | 0x06 => bySize (some (.two .subB)) (some (.two .subW)) (some (.two .subL)) sz cc
  | 0x07 => bySize (some (.two .subqB)) (some (.two .subqW)) (some (.two .subqL)) sz cc
  | 0x08 => bySize none (some (.two .subaW)) (some (.two .subaL)) sz cc
  | 0x09 => bySize (some (.two .cmpB)) (some (.two .cmpW)) (some (.two .cmpL)) sz cc
  | 0x0A => bySize (some (.one .tstB)) (some (.one .tstW)) (some (.one .tstL)) sz cc
  | 0x0B => bySize none (some (.two .mulsW)) none sz cc
  | 0x0C => bySize none (some (.two .muluW)) none sz cc
  | 0x0D => bySize none (some (.two .divsW)) none sz cc
  | 0x0E => bySize none (some (.two .divuW)) none sz cc
  | 0x0F => bySize (some (.two .andB)) (some (.two .andW)) (some (.two .andL)) sz cc
  | 0x10 => bySize (some (.two .orB)) (some (.two .orW)) (some (.two .orL)) sz cc
  | 0x11 => bySize (some (.two .eorB)) (some (.two .eorW)) (some (.two .eorL)) sz cc
  | 0x12 => bySize (some (.one .notB)) (some (.one .notW)) (some (.one .notL)) sz cc
  | 0x13 => bySize (some (.shift .aslB)) (some (.shift .aslW)) (some (.shift .aslL)) sz cc
  | 0x14 => bySize (some (.shift .asrB)) (some (.shift .asrW)) (some (.shift .asrL)) sz cc
  | 0x15 => bySize (some (.shift .lslB)) (some (.shift .lslW)) (some (.shift .lslL)) sz cc
  | 0x16 => bySize (some (.shift .lsrB)) (some (.shift .lsrW)) (some (.shift .lsrL)) sz cc
  | 0x17 => bySize (some (.shift .rolB)) (some (.shift .rolW)) (some (.shift .rolL)) sz cc
  | 0x18 => bySize (some (.shift .rorB)) (some (.shift .rorW)) (some (.shift .rorL)) sz cc
  | 0x19 => bySize (some (.one .negB)) (some (.one .negW)) (some (.one .negL)) sz cc
  | 0x1A => bySize none (some (.one .extW)) (some (.one .extL)) sz cc
  | 0x1B => bySize none (some (.one .swapW)) none sz cc
  | 0x1C => bySize (some (.two .btstB)) none (some (.two .btstL)) sz cc
  | 0x1D => bySize (some (.two .bclrB)) none (some (.two .bclrL)) sz cc
  | 0x1E => bySize (some (.two .bsetB)) none (some (.two .bsetL)) sz cc
  | 0x1F => bySize (some (.two .bchgB)) none (some (.two .bchgL)) sz cc
  | 0x20 => byCond 3 (fun c => .one (Instr.branchOn c)) sz cc
  | 0x21 => unsized (.one .bra) sz cc
  | 0x22 => unsized (.one .bsr) sz cc
  | 0x23 => unsized (.one .jsr) sz cc
  | 0x24 => unsized (.bare .rts) sz cc
  | 0x25 => byCond 1 (fun c => .two (Instr.decBranchOn c)) sz cc
  | 0x26 => byCond 0 (fun c => .one (Instr.setOn c)) sz cc
  | 0x27 => bySize none none (some (.two .leaL)) sz cc
  | 0x28 => bySize none none (some (.one .peaL)) sz cc
  | 0x29 => unsized (.two .link) sz cc
  | 0x2A => unsized (.one .unlk) sz cc
  | 0x2B => bySize none (some (.listFirst .movemWStore)) (some (.listFirst .movemLStore)) sz cc
  | 0x2C => bySize none (some (.listLast .movemWLoad)) (some (.listLast .movemLLoad)) sz cc
  | 0x2D => unsized (.one .trap) sz cc
  | _ => none

/-- The instruction a descriptor selects, bits 5:4 being zero (R92). -/
def opcode (w : BitVec 16) : Option Opcode :=
  if zeroBits w = 0 then opcodeOf (opTag w) (sizeCode w) (condCode w) else none

/-- An opcode with the operands of its entry (R90: the operand count is in R103). -/
def Opcode.withOperands : Opcode → List Operand → Option (BitVec 16) → Option Instr
  | .bare i, [], none => some i
  | .one f, [x], none => some (f x)
  | .two f, [x, y], none => some (f x y)
  | .shift f, [x], none => some (f (.memory x))
  | .shift f, [x, y], none => some (f (.counted x y))
  | .listFirst f, [x], some l => some (f l x)
  | .listLast f, [x], some l => some (f x l)
  | .bare _, _, _ => none
  | .one _, _, _ => none
  | .two _, _, _ => none
  | .shift _, _, _ => none
  | .listFirst _, _, _ => none
  | .listLast _, _, _ => none

/-- Decode an entry: the selection of the instruction by its fields (R92, R130). -/
def decode (e : Entry) : Except DecodeError Instr :=
  match opcode e.descriptor with
  | none => .error .noInstruction
  | some o =>
    match o.withOperands e.operands e.reglist with
    | none => .error .operandShape
    | some i => .ok i

/-! ## The encoder -/

/-- The descriptor of each instruction, the `match` value of its row of spec/opcode_table.json. -/
def Instr.descriptor : Instr → BitVec 16
  | .moveB _ _ => 0x0100#16
  | .moveW _ _ => 0x0140#16
  | .moveL _ _ => 0x0180#16
  | .moveqL _ _ => 0x0280#16
  | .addB _ _ => 0x0300#16
  | .addW _ _ => 0x0340#16
  | .addL _ _ => 0x0380#16
  | .addqB _ _ => 0x0400#16
  | .addqW _ _ => 0x0440#16
  | .addqL _ _ => 0x0480#16
  | .addaW _ _ => 0x0540#16
  | .addaL _ _ => 0x0580#16
  | .subB _ _ => 0x0600#16
  | .subW _ _ => 0x0640#16
  | .subL _ _ => 0x0680#16
  | .subqB _ _ => 0x0700#16
  | .subqW _ _ => 0x0740#16
  | .subqL _ _ => 0x0780#16
  | .subaW _ _ => 0x0840#16
  | .subaL _ _ => 0x0880#16
  | .cmpB _ _ => 0x0900#16
  | .cmpW _ _ => 0x0940#16
  | .cmpL _ _ => 0x0980#16
  | .tstB _ => 0x0A00#16
  | .tstW _ => 0x0A40#16
  | .tstL _ => 0x0A80#16
  | .mulsW _ _ => 0x0B40#16
  | .muluW _ _ => 0x0C40#16
  | .divsW _ _ => 0x0D40#16
  | .divuW _ _ => 0x0E40#16
  | .andB _ _ => 0x0F00#16
  | .andW _ _ => 0x0F40#16
  | .andL _ _ => 0x0F80#16
  | .orB _ _ => 0x1000#16
  | .orW _ _ => 0x1040#16
  | .orL _ _ => 0x1080#16
  | .eorB _ _ => 0x1100#16
  | .eorW _ _ => 0x1140#16
  | .eorL _ _ => 0x1180#16
  | .notB _ => 0x1200#16
  | .notW _ => 0x1240#16
  | .notL _ => 0x1280#16
  | .aslB _ => 0x1300#16
  | .aslW _ => 0x1340#16
  | .aslL _ => 0x1380#16
  | .asrB _ => 0x1400#16
  | .asrW _ => 0x1440#16
  | .asrL _ => 0x1480#16
  | .lslB _ => 0x1500#16
  | .lslW _ => 0x1540#16
  | .lslL _ => 0x1580#16
  | .lsrB _ => 0x1600#16
  | .lsrW _ => 0x1640#16
  | .lsrL _ => 0x1680#16
  | .rolB _ => 0x1700#16
  | .rolW _ => 0x1740#16
  | .rolL _ => 0x1780#16
  | .rorB _ => 0x1800#16
  | .rorW _ => 0x1840#16
  | .rorL _ => 0x1880#16
  | .negB _ => 0x1900#16
  | .negW _ => 0x1940#16
  | .negL _ => 0x1980#16
  | .extW _ => 0x1A40#16
  | .extL _ => 0x1A80#16
  | .swapW _ => 0x1B40#16
  | .btstL _ _ => 0x1C80#16
  | .btstB _ _ => 0x1C00#16
  | .bclrL _ _ => 0x1D80#16
  | .bclrB _ _ => 0x1D00#16
  | .bsetL _ _ => 0x1E80#16
  | .bsetB _ _ => 0x1E00#16
  | .bchgL _ _ => 0x1F80#16
  | .bchgB _ _ => 0x1F00#16
  | .bt _ => 0x20C0#16
  | .bf _ => 0x20C1#16
  | .bhi _ => 0x20C2#16
  | .bls _ => 0x20C3#16
  | .bcc _ => 0x20C4#16
  | .bcs _ => 0x20C5#16
  | .bne _ => 0x20C6#16
  | .beq _ => 0x20C7#16
  | .bvc _ => 0x20C8#16
  | .bvs _ => 0x20C9#16
  | .bpl _ => 0x20CA#16
  | .bmi _ => 0x20CB#16
  | .bge _ => 0x20CC#16
  | .blt _ => 0x20CD#16
  | .bgt _ => 0x20CE#16
  | .ble _ => 0x20CF#16
  | .bra _ => 0x21C0#16
  | .bsr _ => 0x22C0#16
  | .jsr _ => 0x23C0#16
  | .rts => 0x24C0#16
  | .dbtW _ _ => 0x2540#16
  | .dbfW _ _ => 0x2541#16
  | .dbhiW _ _ => 0x2542#16
  | .dblsW _ _ => 0x2543#16
  | .dbccW _ _ => 0x2544#16
  | .dbcsW _ _ => 0x2545#16
  | .dbneW _ _ => 0x2546#16
  | .dbeqW _ _ => 0x2547#16
  | .dbvcW _ _ => 0x2548#16
  | .dbvsW _ _ => 0x2549#16
  | .dbplW _ _ => 0x254A#16
  | .dbmiW _ _ => 0x254B#16
  | .dbgeW _ _ => 0x254C#16
  | .dbltW _ _ => 0x254D#16
  | .dbgtW _ _ => 0x254E#16
  | .dbleW _ _ => 0x254F#16
  | .stB _ => 0x2600#16
  | .sfB _ => 0x2601#16
  | .shiB _ => 0x2602#16
  | .slsB _ => 0x2603#16
  | .sccB _ => 0x2604#16
  | .scsB _ => 0x2605#16
  | .sneB _ => 0x2606#16
  | .seqB _ => 0x2607#16
  | .svcB _ => 0x2608#16
  | .svsB _ => 0x2609#16
  | .splB _ => 0x260A#16
  | .smiB _ => 0x260B#16
  | .sgeB _ => 0x260C#16
  | .sltB _ => 0x260D#16
  | .sgtB _ => 0x260E#16
  | .sleB _ => 0x260F#16
  | .leaL _ _ => 0x2780#16
  | .peaL _ => 0x2880#16
  | .link _ _ => 0x29C0#16
  | .unlk _ => 0x2AC0#16
  | .movemWStore _ _ => 0x2B40#16
  | .movemLStore _ _ => 0x2B80#16
  | .movemWLoad _ _ => 0x2C40#16
  | .movemLLoad _ _ => 0x2C80#16
  | .trap _ => 0x2DC0#16

/-- The operands of a shape, in assembly order (R90). -/
def Shape.operands : Shape → List Operand
  | .move _ src dst => [src, dst]
  | .moveq src dst => [src, dst]
  | .addSub _ src dst => [src, dst]
  | .toAddr _ src dst => [src, dst]
  | .quick _ src dst => [src, dst]
  | .compare _ src dst => [src, dst]
  | .unary _ dst => [dst]
  | .andOr _ src dst => [src, dst]
  | .eor _ src dst => [src, dst]
  | .mulDiv src dst => [src, dst]
  | .dataReg dst => [dst]
  | .shift _ (.counted count dst) => [count, dst]
  | .shift _ (.memory dst) => [dst]
  | .bit _ bitnum dst => [bitnum, dst]
  | .setByte dst => [dst]
  | .branch target => [target]
  | .jump target => [target]
  | .bare => []
  | .decBranch counter target => [counter, target]
  | .loadAddr src dst => [src, dst]
  | .pushAddr src => [src]
  | .link reg disp => [reg, disp]
  | .unlink reg => [reg]
  | .storeRegs _ _ dst => [dst]
  | .loadRegs _ src _ => [src]
  | .trap vector => [vector]

/-- The register list of a shape, MOVEM's only (R102). -/
def Shape.reglist : Shape → Option (BitVec 16)
  | .storeRegs _ l _ => some l
  | .loadRegs _ _ l => some l
  | _ => none

/-- Encode an instruction as its entry (R90, R92). -/
def encode (i : Instr) : Entry :=
  { descriptor := i.descriptor, operands := i.shape.operands, reglist := i.shape.reglist }

/-! ## A descriptor alone, for the host -/

/-- The operands the host's bare descriptor stands for (log 8): the first admitted form of the row in R103 with every
number in it zero, or the least number the row admits (1 for a quick constant, 15 for the trap vector). -/
def plainOperands (tag sz : Nat) : List Operand × Option (BitVec 16) :=
  let d0 : Operand := .register (.data 0)
  let a0 : Operand := .register (.addr 0)
  let indirectA0 : Operand := .indirect 0 0 none .plain
  match tag, sz with
  | 0x02, _ => ([.immediate 0, d0], none)
  | 0x04, _ => ([.immediate 1, d0], none)
  | 0x07, _ => ([.immediate 1, d0], none)
  | 0x05, _ => ([d0, a0], none)
  | 0x08, _ => ([d0, a0], none)
  | 0x0A, _ => ([d0], none)
  | 0x12, _ => ([d0], none)
  | 0x19, _ => ([d0], none)
  | 0x1A, _ => ([d0], none)
  | 0x1B, _ => ([d0], none)
  | 0x1C, 0 => ([.immediate 0, indirectA0], none)
  | 0x1D, 0 => ([.immediate 0, indirectA0], none)
  | 0x1E, 0 => ([.immediate 0, indirectA0], none)
  | 0x1F, 0 => ([.immediate 0, indirectA0], none)
  | 0x1C, _ => ([.immediate 0, d0], none)
  | 0x1D, _ => ([.immediate 0, d0], none)
  | 0x1E, _ => ([.immediate 0, d0], none)
  | 0x1F, _ => ([.immediate 0, d0], none)
  | 0x20, _ => ([.address 0], none)
  | 0x21, _ => ([.address 0], none)
  | 0x22, _ => ([.address 0], none)
  | 0x23, _ => ([.address 0], none)
  | 0x24, _ => ([], none)
  | 0x25, _ => ([d0, .address 0], none)
  | 0x26, _ => ([d0], none)
  | 0x27, _ => ([indirectA0, a0], none)
  | 0x28, _ => ([indirectA0], none)
  | 0x29, _ => ([a0, .immediate 0], none)
  | 0x2A, _ => ([a0], none)
  | 0x2B, _ => ([indirectA0], some 0)
  | 0x2C, _ => ([indirectA0], some 0)
  | 0x2D, _ => ([.immediate 15], none)
  | _, _ => ([d0, d0], none)

/-- The entry that stands for an instruction whose bits are `w`, `nbits` of them: a descriptor is 16 bits wide, so a
number with bits above is no entry. -/
def tableEntry (nbits w : Nat) : Option Entry :=
  if w % 2 ^ nbits < 2 ^ 16 then
    let desc := BitVec.ofNat 16 (w % 2 ^ nbits)
    let ops := plainOperands (opTag desc) (sizeCode desc)
    some { descriptor := desc, operands := ops.1, reglist := ops.2 }
  else none

/-- The instruction the decoder reads from an instruction whose bits are `w` (log 8). -/
def decodeTableWord (nbits w : Nat) : Option Instr :=
  match tableEntry nbits w with
  | none => none
  | some e =>
    match decode e with
    | .ok i => some i
    | .error _ => none

end Sys2Proof
end

