-- ==== Sys2Proof/Machine/State.lean ====
section
/-! DEFINITION. The state of the engine as plain data (spec/10_state.md R20 to R37), its runtime faults, its refusals, and
the state after reset. -/

namespace Sys2Proof.Machine

/-- The runtime faults (`RuntimeError`, spec/60_exceptions.md R310). Taking one is a NEXT state of the machine, with the
whole step rolled back and the fault kept as `State.reason` (R312); `step` and `exec` never answer `Outcome.fault` (log 9,
safe: nothing the spec gives an effect is lost). -/
inductive Fault where
  /-- Raised by every data-memory access with `u(addr) + n > MEM_SIZE` (R61). Safe: the spec states it. -/
  | addressOutOfBounds
  /-- Raised by a word or long access at an odd address when `MISALIGNED = fault` (R65). Safe: the spec states it. -/
  | misalignedAccess
  /-- Raised by `DIVS`, `DIVU` with a zero divisor (R203, R204). Safe: the spec states it. -/
  | divisionByZero
  /-- Raised by `DIVS`, `DIVU` when the quotient does not fit 16 bits (R203, R204). Safe: the spec states it. -/
  | divisionOverflow
  /-- Raised by a byte-size access to an address register (R22, R23, R104 (a)). Unsafe in part: log 6. -/
  | illegalAddressingMode
  /-- Raised by a fetch at a `pc` that is no entry address, an entry that denotes no instruction, a `TRAP` with another
  vector, an unlisted task (R131, R104 (b), R290, R300). Safe: the spec states it. -/
  | illegalInstruction
  /-- Raised by nothing (R150, R310: the source names it and gives no cause). Safe. -/
  | stackUnderflow
  /-- Reported to the host by `answerInterrupt` for a wrong tag (`Reply.rejected`); it does not end the run (R305). Safe. -/
  | interruptMismatch
  /-- Raised by `step` in status Interrupt when the host has no answer, and by every run variant called in that status
(R325 (a)). Safe: the spec states it. -/
  | unansweredInterrupt
  deriving DecidableEq, Repr

/-- Why the model gives a step no meaning (spec/00_scope.md R10). Each is safe: nothing can be proved of a run past it. -/
inductive Refusal where
  /-- Raised by `exec` for an instruction that has no meaning yet. -/
  | notModelled (mnemonic : String)
  /-- Raised by every meaning for a form outside R103 to which the spec gives no fault (R104 (c)). -/
  | formNotAdmitted
  /-- Raised by `step` for an entry whose number of operands, or whose register list, fits no form (R104 (c)). -/
  | operandShape
  /-- Raised by `step` and the run variants after `undo`: the status they would start from is unknown (R327, spec/93
U21). -/
  | stepAfterUndo
  deriving DecidableEq, Repr

/-- How the pseudocode of an instruction stops early: `raise` (R9) or `refuse` (R10). -/
inductive Stop where
  | raise (f : Fault)
  | refuse (r : Refusal)
  deriving DecidableEq, Repr

/-- A value of the pseudocode, or the stop that ended it. -/
abbrev Res (α : Type) := Except Stop α

/-- The five flags of the condition code register (R26). -/
structure Flags where
  x : Bool
  n : Bool
  z : Bool
  v : Bool
  c : Bool
  deriving DecidableEq, Repr

/-- The engine status (R29). -/
inductive Status where
  | running
  | interrupt
  | terminated
  | terminatedWithException
  deriving DecidableEq, Repr

/-- The request record of `TRAP #15` (spec/49_trap15.md R301). -/
inductive Interrupt where
  | displayStringWithCRLF (bytes : List Byte)
  | displayStringWithoutCRLF (bytes : List Byte)
  | readKeyboardString
  | displayNumber (value : Int)
  | readNumber
  | readChar
  | displayChar (char : Byte)
  | getTime
  deriving DecidableEq, Repr

/-- The host's answer (R301). -/
inductive InterruptResult where
  | displayStringWithCRLF
  | displayStringWithoutCRLF
  | readKeyboardString (s : List Byte)
  | displayNumber
  | readNumber (n : Word)
  | readChar (c : Byte)
  | displayChar
  | getTime (t : Word)
  deriving DecidableEq, Repr

/-- Data memory as the list of the bytes that differ from what an unlisted address reads as, addresses strictly rising
(R33, log 5). -/
abbrev Memory := List Host.Cell

/-- A record of the logical call stack (spec/60_exceptions.md R329). -/
structure CallRecord where
  label : Option String
  sp    : Word
  deriving DecidableEq, Repr

/-- A recorded primitive change, with the old value (R326). The old register value is the whole register, the old memory
bytes are in address order (log 13). -/
inductive Mutation where
  | writeRegister (reg : Reg) (old : Word) (size : Size)
  | writeMemory (addr : Word) (old : List Byte) (size : Size)
  | writeMemoryBytes (addr : Word) (old : List Byte)
  | writeFlags (old : Flags)
  | writePc (old : Word)
  deriving DecidableEq, Repr

/-- A history entry (R326). -/
structure ExecutionStep where
  pcBefore  : Word
  mutations : List Mutation
  lineIndex : Nat
  deriving DecidableEq, Repr

/-- The `parsed_line` of an entry: "the source text and its `line_index` for the host" (R90, log 24). -/
structure ParsedLine where
  text      : String
  lineIndex : Nat
  deriving DecidableEq, Repr

/-- An `InstructionLine` of the instruction table (R90). Its address is its place in the table (R91). -/
structure InstructionLine where
  entry      : Entry
  parsedLine : ParsedLine
  deriving DecidableEq, Repr

/-- The line index history entries and the host read (R90, R326). -/
abbrev InstructionLine.lineIndex (line : InstructionLine) : Nat := line.parsedLine.lineIndex

/-- What construction fixes of the compiled program: the instruction table and the label values (R34). -/
structure Program where
  lines  : List InstructionLine
  labels : List (Word × String)
  deriving DecidableEq, Repr

/-- The policy for odd-address word and long accesses (R65). -/
inductive MisalignedPolicy where
  | allow
  | fault
  deriving DecidableEq, Repr

/-- The arguments of construction other than the program (R5, R361). -/
structure Options where
  memSize     : Nat
  misaligned  : MisalignedPolicy
  keepHistory : Bool
  historySize : Nat
  deriving DecidableEq, Repr

/-- The state of the engine: the registers, flags and program counter; the status with its terminal reason, bottom mark
and interrupt slot; the data memory; the debug state; and what construction fixed. `openEntry` holds the mutations of the
step in progress (R130: "open a history entry ... close the history entry"), `undone` says that `undo` left the status
unknown (R327), `answers` are the host's answers not yet given, oldest first (log 11). -/
structure State where
  d             : Vector Word 8
  a             : Vector Word 8
  pc            : Word
  flags         : Flags
  status        : Status
  reason        : Option Fault
  reachedBottom : Bool
  curInterrupt  : Option Interrupt
  mem           : Memory
  callStack     : List CallRecord
  history       : List ExecutionStep
  openEntry     : List Mutation
  undone        : Bool
  answers       : List InterruptResult
  program       : Program
  options       : Options
  deriving DecidableEq, Repr

/-- What a meaning answers. -/
abbrev Result := Host.Outcome State Fault Refusal

/-- The options of `State.reset`: the spec's defaults of `MEM_SIZE` and `MISALIGNED` (R5), history off (log 2). -/
def Options.default : Options :=
  { memSize := Config.defaultMemSize, misaligned := .allow, keepHistory := false, historySize := 0 }

/-- `SP_INIT`: `MEM_SIZE` with bit 0 cleared, as a 32-bit value (R37, D2, log 4). -/
def spInit (memSize : Nat) : Word := BitVec.ofNat 32 (memSize / 2 * 2)

/-- The state right after reset (R37, R360), with no program loaded, so `N_INSTR = 0` and the end check of R133 has
already run: status Terminated, `reached_bottom` true (log 1). `boot` (Boot.lean) is the reset of a given program. -/
def State.reset : State :=
  { d := Vector.replicate 8 0
    a := (Vector.replicate 8 0).set 7 (spInit Config.defaultMemSize)
    pc := 0
    flags := { x := false, n := false, z := false, v := false, c := false }
    status := .terminated
    reason := none
    reachedBottom := true
    curInterrupt := none
    mem := []
    callStack := []
    history := []
    openEntry := []
    undone := false
    answers := []
    program := { lines := [], labels := [] }
    options := Options.default }

end Sys2Proof.Machine
end

