-- ==== Sys2Proof/Machine/Ops.lean ====
section
/-! DEFINITION. The named operations over memory and registers (spec/20_memory.md R60 to R68, spec/10_state.md R20 to R25),
the stack primitives (spec/40_step_and_operands.md R150), taking a fault (spec/60_exceptions.md R312) and the end of a
meaning. Each write of a register, of memory, of the flags or of `pc` records its mutation in the open history entry
(R326, log 13). -/

namespace Sys2Proof.Machine

/-! ## Data memory as a list of cells -/

/-- What a byte that is not listed reads as (log 5). -/
def unlistedByte : Byte := 0

/-- The byte at an address. -/
def Memory.readByte : Memory → Nat → Byte
  | [], _ => unlistedByte
  | (k, v) :: rest, a => if k = a then v else Memory.readByte rest a

/-- The memory with an address no longer listed. -/
def Memory.forget (m : Memory) (a : Nat) : Memory := m.filter (fun cell => cell.1 ≠ a)

/-- The memory with an address listed in its place of the rising order. -/
def Memory.insertCell : Memory → Nat → Byte → Memory
  | [], a, v => [(a, v)]
  | (k, w) :: rest, a, v => if a < k then (a, v) :: (k, w) :: rest else (k, w) :: Memory.insertCell rest a v

/-- The memory after one byte is written. -/
def Memory.writeByte (m : Memory) (a : Nat) (v : Byte) : Memory :=
  if v = unlistedByte then m.forget a else (m.forget a).insertCell a v

/-- `len` bytes from an address, lowest address first (R66). -/
def Memory.readBytes (m : Memory) (a : Nat) : Nat → List Byte
  | 0 => []
  | len + 1 => m.readByte a :: Memory.readBytes m (a + 1) len

/-- The memory after a byte string is written from an address (R66). -/
def Memory.writeBytes (m : Memory) (a : Nat) : List Byte → Memory
  | [] => m
  | b :: bs => Memory.writeBytes (m.writeByte a b) (a + 1) bs

/-- The canonical form: addresses strictly rising, no entry equal to what an unlisted address reads as. -/
def Memory.wf : Memory → Bool
  | [] => true
  | [(_, v)] => v != unlistedByte
  | (k, v) :: (k', v') :: rest => v != unlistedByte && k < k' && Memory.wf ((k', v') :: rest)

/-! ## Byte order -/

/-- The bytes of a value, most significant first (R63, R64). -/
def bytesOf : (sz : Size) → BitVec sz.bits → List Byte
  | .B, v => [v]
  | .W, v => [v.extractLsb' 8 8, v.extractLsb' 0 8]
  | .L, v => [v.extractLsb' 24 8, v.extractLsb' 16 8, v.extractLsb' 8 8, v.extractLsb' 0 8]

/-- The value of a byte string, most significant byte first (R62, R64). -/
def valueOf (sz : Size) (bs : List Byte) : BitVec sz.bits :=
  match sz with
  | .B => bs.getD 0 0
  | .W => bs.getD 0 0 ++ bs.getD 1 0
  | .L => bs.getD 0 0 ++ bs.getD 1 0 ++ bs.getD 2 0 ++ bs.getD 3 0

/-! ## Bounds and alignment -/

/-- R61: an access of `n` bytes at `addr` is in bounds, the sum taken in unbounded integers; an access of zero bytes is
"always in bounds and touches nothing". -/
def State.inBounds (s : State) (addr : Word) (n : Nat) : Bool := n = 0 || addr.toNat + n ≤ s.options.memSize

/-- R65: the policy faults this access. -/
def State.misalignedAt (s : State) (addr : Word) (sz : Size) : Bool :=
  s.options.misaligned = .fault && 1 < sz.bytes && addr.getLsbD 0

/-- The checks of an access, bounds before alignment (R62, R63, R314 (c)). -/
def checkAccess (addr : Word) (sz : Size) (s : State) : Res Unit :=
  if !s.inBounds addr sz.bytes then .error (.raise .addressOutOfBounds)
  else if s.misalignedAt addr sz then .error (.raise .misalignedAccess)
  else .ok ()

/-! ## Memory access -/

/-- `MemRead` (R62). -/
def memRead (addr : Word) (sz : Size) (s : State) : Res (BitVec sz.bits) := do
  checkAccess addr sz s
  .ok (valueOf sz (s.mem.readBytes addr.toNat sz.bytes))

/-- The state after the bytes of a value are stored at an address, the mutation recorded. -/
def State.storeAt (s : State) (addr : Word) (sz : Size) (v : BitVec sz.bits) : State :=
  { s with
    mem := s.mem.writeBytes addr.toNat (bytesOf sz v)
    openEntry := s.openEntry ++ [.writeMemory addr (s.mem.readBytes addr.toNat sz.bytes) sz] }

/-- `MemWrite` (R63). -/
def memWrite (addr : Word) (sz : Size) (v : BitVec sz.bits) (s : State) : Res State := do
  checkAccess addr sz s
  .ok (s.storeAt addr sz v)

/-- `MemReadBytes` (R66). -/
def memReadBytes (addr : Word) (len : Nat) (s : State) : Res (List Byte) :=
  if s.inBounds addr len then .ok (s.mem.readBytes addr.toNat len) else .error (.raise .addressOutOfBounds)

/-- `MemWriteBytes` (R66). -/
def memWriteBytes (addr : Word) (bs : List Byte) (s : State) : Res State :=
  if s.inBounds addr bs.length then
    .ok { s with
          mem := s.mem.writeBytes addr.toNat bs
          openEntry := s.openEntry ++ [.writeMemoryBytes addr (s.mem.readBytes addr.toNat bs.length)] }
  else .error (.raise .addressOutOfBounds)

/-! ## Registers -/

/-- `x[r]`, the full content of a register (R22). -/
def State.x (s : State) : Reg → Word
  | .data n => s.d[n.val]
  | .addr n => s.a[n.val]

/-- The state with a register replaced and nothing recorded. -/
def State.withReg (s : State) (r : Reg) (v : Word) : State :=
  match r with
  | .data n => { s with d := s.d.set n.val v }
  | .addr n => { s with a := s.a.set n.val v }

/-- `x[r] <- v`, a 32-bit register write (R23), recorded with the size of the access. -/
def State.putReg (s : State) (r : Reg) (v : Word) (sz : Size) : State :=
  { s.withReg r v with openEntry := s.openEntry ++ [.writeRegister r (s.x r) sz] }

/-- "`Byte` on address registers is illegal" (R22, R23). -/
def byteOnAddr : Reg → Size → Bool
  | .addr _, .B => true
  | .addr _, .W => false
  | .addr _, .L => false
  | .data _, _ => false

/-- `RegRead` (R22). -/
def regRead (r : Reg) (sz : Size) (s : State) : Res (BitVec sz.bits) :=
  if byteOnAddr r sz then .error (.raise .illegalAddressingMode) else .ok ((s.x r).setWidth sz.bits)

/-- The whole register after a write of size `sz` (R23): a data register keeps its upper bits, an address register takes
the sign-extended value. -/
def mergeReg (r : Reg) (sz : Size) (old : Word) (v : BitVec sz.bits) : Word :=
  match r, sz with
  | .data _, .B => old.extractLsb' 8 24 ++ v
  | .data _, .W => old.extractLsb' 16 16 ++ v
  | .data _, .L => v
  | .addr _, .B => v.signExtend 32
  | .addr _, .W => v.signExtend 32
  | .addr _, .L => v

/-- `RegWrite` (R23). -/
def regWrite (r : Reg) (sz : Size) (v : BitVec sz.bits) (s : State) : Res State :=
  if byteOnAddr r sz then .error (.raise .illegalAddressingMode)
  else .ok (s.putReg r (mergeReg r sz (s.x r) v) sz)

/-! ## Flags and program counter -/

/-- The flags written, recorded (R26, R326). -/
def State.putFlags (s : State) (f : Flags) : State :=
  { s with flags := f, openEntry := s.openEntry ++ [.writeFlags s.flags] }

/-- `pc <- t` by an instruction, recorded (R25). -/
def State.jump (s : State) (t : Word) : State :=
  { s with pc := t, openEntry := s.openEntry ++ [.writePc s.pc] }

/-- The sequential advance of R132: `pc <- (pc_before + 4) mod 2^32`, recorded as every write of `pc` is (R25). -/
def State.advance (s : State) : State :=
  { s with pc := s.pc + 4, openEntry := s.openEntry ++ [.writePc s.pc] }

/-! ## Stack -/

/-- `Push32` (R150). -/
def push32 (v : Word) (s : State) : Res State :=
  let sp := s.x .sp - 4
  memWrite sp .L v (s.putReg .sp sp .L)

/-- `Pop32` (R150). -/
def pop32 (s : State) : Res (Word × State) := do
  let v ← memRead (s.x .sp) .L s
  .ok (v, s.putReg .sp (s.x .sp + 4) .L)

/-! ## Call stack (debug state) -/

/-- The stack pointer a call record keeps: before or after the push, which the spec does not say (R329, log 17). -/
def snapshotSp (before after : Word) : Word := if Config.callSnapshotAfterPush then after else before

/-- A record pushed by `BSR`, `JSR`: "the target label (if known) and the stack pointer snapshot" (R329). -/
def State.pushCall (s : State) (target spBefore : Word) : State :=
  { s with
    callStack := { label := s.program.labels.lookup target, sp := snapshotSp spBefore (s.x .sp) } :: s.callStack }

/-- A record popped by `RTS`; an empty call stack stays empty (R329). -/
def State.popCall (s : State) : State := { s with callStack := s.callStack.tail }

/-! ## Taking a fault, and the end of a meaning -/

/-- Taking a runtime fault, from the state before the step (R312): everything else is as before the step. There is no
return from it (R313); the return from the trap is `answerInterrupt` (HostCalls.lean). -/
def takeFault (f : Fault) (s : State) : State :=
  { s with curInterrupt := none, reason := some f, status := .terminatedWithException }

/-- The outcome of a meaning: on `raise` the fault is taken from the state before the instruction (R9). -/
def settle (s : State) : Res State → Result
  | .ok t => .next t
  | .error (.raise f) => .next (takeFault f s)
  | .error (.refuse r) => .refused r

/-- The forms a meaning runs: the admitted ones (R103) and those for which the spec names a fault (R104 (a), (b)). -/
def shapeRuns (sh : Shape) : Bool := sh.admitted || sh.byteOnAddr || sh.otherVector

/-- A meaning: its pseudocode on the forms that run, a refusal on every other form (R104 (c), log 7). -/
def runForm (sh : Shape) (body : State → Res State) (s : State) : Result :=
  if shapeRuns sh then settle s (body s) else .refused .formNotAdmitted

end Sys2Proof.Machine
end

