-- ==== Sys2Proof/Machine/Flags.lean ====
section
/-! DEFINITION. The flag computations (spec/42_add_sub_cmp_neg.md R180, R181; spec/44_logic_ext_swap.md R210;
spec/45_shift_rotate.md R226 to R232), the conditions (spec/47_branch_cond.md R250) and the flags as the host reads them
(spec/10_state.md R26). Results are computed on unbounded integers and narrowed at the end. -/

namespace Sys2Proof.Machine

/-- What an instruction computes from its operands: a result and the flags after it. -/
structure Computed (w : Nat) where
  value : BitVec w
  flags : Flags
  deriving DecidableEq, Repr

/-- The carry out of an addition (R180). -/
def addCarry {w : Nat} (a b : BitVec w) : Bool := 2 ^ w ≤ a.toNat + b.toNat

/-- The signed overflow of an addition (R180). -/
def addOverflow {w : Nat} (a b : BitVec w) : Bool := a.toInt + b.toInt != (a + b).toInt

/-- The borrow of `d - s` (R181). -/
def subBorrow {w : Nat} (s d : BitVec w) : Bool := d.toNat < s.toNat

/-- The signed overflow of `d - s` (R181). -/
def subOverflow {w : Nat} (s d : BitVec w) : Bool := d.toInt - s.toInt != (d - s).toInt

/-- `AddFlags` with `X = C` (R180, R182). -/
def addCompute {w : Nat} (s d : BitVec w) (_ : Flags) : Computed w :=
  let r := d + s
  let c := addCarry s d
  { value := r, flags := { x := c, n := r.msb, z := r = 0, v := addOverflow s d, c := c } }

/-- `SubFlags` with `X = C` (R181, R185): `d - s`. -/
def subCompute {w : Nat} (s d : BitVec w) (_ : Flags) : Computed w :=
  let r := d - s
  let c := subBorrow s d
  { value := r, flags := { x := c, n := r.msb, z := r = 0, v := subOverflow s d, c := c } }

/-- `SubFlags` with `X` unchanged (R188). -/
def cmpFlags {w : Nat} (s d : BitVec w) (f : Flags) : Flags :=
  { x := f.x, n := (d - s).msb, z := d - s = 0, v := subOverflow s d, c := subBorrow s d }

/-- `LogicFlags` (R210): `N`, `Z` from a result, `V = C = 0`, `X` unchanged. -/
def logicFlags {w : Nat} (r : BitVec w) (f : Flags) : Flags :=
  { x := f.x, n := r.msb, z := r = 0, v := false, c := false }

/-- The result of a shift by at least one: the value, the last bit shifted out, and the overflow. -/
structure Shifted (w : Nat) where
  value    : BitVec w
  lastOut  : Bool
  overflow : Bool
  deriving DecidableEq, Repr

/-- The last bit shifted out of the top (R227, R229). -/
def outOfTop {w : Nat} (v : BitVec w) (c : Nat) : Bool := if c ≤ w then v.getLsbD (w - c) else false

/-- The sign bit took two values during a left shift (R227): bits `w-1` down to `w-1-c` are not all equal, or, for a
count of at least the width, the value is not zero. -/
def signChanged {w : Nat} (v : BitVec w) (c : Nat) : Bool :=
  if c < w then !(List.range (c + 1)).all (fun i => v.getLsbD (w - 1 - i) == v.msb) else v != 0

/-- R227. -/
def shiftAsl {w : Nat} (v : BitVec w) (c : Nat) : Shifted w :=
  { value := BitVec.ofNat w (v.toNat * 2 ^ c), lastOut := outOfTop v c, overflow := signChanged v c }

/-- R228: the signed value divided by `2^c`, rounded down. -/
def shiftAsr {w : Nat} (v : BitVec w) (c : Nat) : Shifted w :=
  { value := BitVec.ofInt w (v.toInt / (2 : Int) ^ c)
    lastOut := if c ≤ w then v.getLsbD (c - 1) else v.msb
    overflow := false }

/-- R229. -/
def shiftLsl {w : Nat} (v : BitVec w) (c : Nat) : Shifted w :=
  { value := BitVec.ofNat w (v.toNat * 2 ^ c), lastOut := outOfTop v c, overflow := false }

/-- R230. -/
def shiftLsr {w : Nat} (v : BitVec w) (c : Nat) : Shifted w :=
  { value := BitVec.ofNat w (v.toNat / 2 ^ c)
    lastOut := if c ≤ w then v.getLsbD (c - 1) else false
    overflow := false }

/-- R231, with `k = c mod w`. -/
def shiftRol {w : Nat} (v : BitVec w) (c : Nat) : Shifted w :=
  let k := c % w
  let r := BitVec.ofNat w (v.toNat * 2 ^ k % 2 ^ w + v.toNat / 2 ^ (w - k))
  { value := r, lastOut := r.getLsbD 0, overflow := false }

/-- R232, with `k = c mod w`. -/
def shiftRor {w : Nat} (v : BitVec w) (c : Nat) : Shifted w :=
  let k := c % w
  let r := BitVec.ofNat w (v.toNat / 2 ^ k + v.toNat * 2 ^ (w - k) % 2 ^ w)
  { value := r, lastOut := r.msb, overflow := false }

/-- The function of each shift and rotate for a count of at least one (R227 to R232). -/
def shiftBy {w : Nat} : ShiftOp → BitVec w → Nat → Shifted w
  | .asl => shiftAsl
  | .asr => shiftAsr
  | .lsl => shiftLsl
  | .lsr => shiftLsr
  | .rol => shiftRol
  | .ror => shiftRor

/-- `X` after a shift by at least one: "X=C for shifts, X unchanged for rotates" (R227 to R232). -/
def shiftX : ShiftOp → Bool → Bool → Bool
  | .asl, _, out => out
  | .asr, _, out => out
  | .lsl, _, out => out
  | .lsr, _, out => out
  | .rol, x, _ => x
  | .ror, x, _ => x

/-- A shift or rotate by a count: the operand unchanged, `V = C = 0` and `X` unchanged for a zero count (R226), else R227
to R232. -/
def shiftCompute {w : Nat} (op : ShiftOp) (c : Nat) (v : BitVec w) (f : Flags) : Computed w :=
  if c = 0 then { value := v, flags := logicFlags v f }
  else
    let r := shiftBy op v c
    { value := r.value
      flags := { x := shiftX op f.x r.lastOut, n := r.value.msb, z := r.value = 0, v := r.overflow, c := r.lastOut } }

/-- `cond(cc)` (R250). -/
def cond (k : Cond) (f : Flags) : Bool :=
  match k with
  | .t => true
  | .f => false
  | .hi => !f.c && !f.z
  | .ls => f.c || f.z
  | .cc => !f.c
  | .cs => f.c
  | .ne => !f.z
  | .eq => f.z
  | .vc => !f.v
  | .vs => f.v
  | .pl => !f.n
  | .mi => f.n
  | .ge => f.n == f.v
  | .lt => f.n != f.v
  | .gt => !f.z && (f.n == f.v)
  | .le => f.z || (f.n != f.v)

/-- The condition code byte: X = bit 4, N = bit 3, Z = bit 2, V = bit 1, C = bit 0, bits 7 to 5 zero (R26). -/
def ccrByte (f : Flags) : Byte :=
  (0#3) ++ BitVec.ofBool f.x ++ BitVec.ofBool f.n ++ BitVec.ofBool f.z ++ BitVec.ofBool f.v ++ BitVec.ofBool f.c

/-- The flags in the order `[X,N,Z,V,C]` (R26). -/
def flagsArray (f : Flags) : List Bool := [f.x, f.n, f.z, f.v, f.c]

end Sys2Proof.Machine
end

