-- ==== Sys2Proof/Machine/Operands.lean ====
section
/-! DEFINITION. From operand to location (spec/40_step_and_operands.md R134 to R151): resolving an operand, reading
and writing a location, the address-only resolution, and the operand work instructions share. -/

namespace Sys2Proof.Machine

/-- A location (R134). -/
inductive Loc where
  | imm (v : Word)
  | reg (r : Reg)
  | mem (addr : Word)
  deriving DecidableEq, Repr

/-- The increment of predecrement and postincrement (R145): the size, except that a byte on `A7` counts 2. -/
def incAmount (sz : Size) (n : Fin 8) : Word :=
  match sz with
  | .B => if n = 7 then 2 else 1
  | .W => 2
  | .L => 4

/-- The index value (R141): a word index is sign-extended. -/
def indexValue (ix : IndexSpec) (s : State) : Word :=
  match ix.size with
  | .word => ((s.x ix.reg).setWidth 16).signExtend 32
  | .long => s.x ix.reg

/-- The address of a `PLAIN` indirect operand (R137, R140, R141). -/
def plainAddress (base : Fin 8) (disp : Word) (index : Option IndexSpec) (s : State) : Word :=
  match index with
  | none => s.x (.addr base) + disp
  | some ix => s.x (.addr base) + disp + indexValue ix s

/-- `Resolve` (R135 to R142): the location, and the state with the address register a predecrement or postincrement
changed. A branch target in a data position has no location and is refused (R144). -/
def resolve (op : Operand) (sz : Size) (s : State) : Res (Loc × State) :=
  match op with
  | .immediate v => .ok (.imm v, s)
  | .register r => .ok (.reg r, s)
  | .indirect n d ix .plain => .ok (.mem (plainAddress n d ix s), s)
  | .indirect n _ _ .pre =>
    let addr := s.x (.addr n) - incAmount sz n
    .ok (.mem addr, s.putReg (.addr n) addr .L)
  | .indirect n _ _ .post =>
    let addr := s.x (.addr n)
    .ok (.mem addr, s.putReg (.addr n) (addr + incAmount sz n) .L)
  | .absolute addr => .ok (.mem addr, s)
  | .address _ => .error (.refuse .formNotAdmitted)

/-- `ReadLoc` (R146). -/
def readLoc (loc : Loc) (sz : Size) (s : State) : Res (BitVec sz.bits) :=
  match loc with
  | .imm v => .ok (v.setWidth sz.bits)
  | .reg r => regRead r sz s
  | .mem addr => memRead addr sz s

/-- `WriteLoc` (R147): no form writes an immediate. -/
def writeLoc (loc : Loc) (sz : Size) (v : BitVec sz.bits) (s : State) : Res State :=
  match loc with
  | .imm _ => .error (.refuse .formNotAdmitted)
  | .reg r => regWrite r sz v s
  | .mem addr => memWrite addr sz v s

/-- `EffAddr` (R151): an address computed and not accessed; a branch target is its own address (`JSR`). -/
def effAddr (op : Operand) (s : State) : Res Word :=
  match op with
  | .indirect n d ix .plain => .ok (plainAddress n d ix s)
  | .absolute addr => .ok addr
  | .address t => .ok t
  | .indirect _ _ _ .pre => .error (.refuse .formNotAdmitted)
  | .indirect _ _ _ .post => .error (.refuse .formNotAdmitted)
  | .immediate _ => .error (.refuse .formNotAdmitted)
  | .register _ => .error (.refuse .formNotAdmitted)

/-- The instruction-space address of a branch target (R144). -/
def targetOf (op : Operand) : Res Word :=
  match op with
  | .address t => .ok t
  | .immediate _ => .error (.refuse .formNotAdmitted)
  | .register _ => .error (.refuse .formNotAdmitted)
  | .indirect _ _ _ _ => .error (.refuse .formNotAdmitted)
  | .absolute _ => .error (.refuse .formNotAdmitted)

/-- The register a register operand names. -/
def regOf (op : Operand) : Res Reg :=
  match op with
  | .register r => .ok r
  | .immediate _ => .error (.refuse .formNotAdmitted)
  | .indirect _ _ _ _ => .error (.refuse .formNotAdmitted)
  | .absolute _ => .error (.refuse .formNotAdmitted)
  | .address _ => .error (.refuse .formNotAdmitted)

/-- The 32-bit value of an immediate operand (R97). -/
def immOf (op : Operand) : Res Word :=
  match op with
  | .immediate v => .ok v
  | .register _ => .error (.refuse .formNotAdmitted)
  | .indirect _ _ _ _ => .error (.refuse .formNotAdmitted)
  | .absolute _ => .error (.refuse .formNotAdmitted)
  | .address _ => .error (.refuse .formNotAdmitted)

/-- A number given as `#imm` or in a data register, all 32 bits: a shift count (R225) or a bit number (R240). -/
def numberOf (op : Operand) (s : State) : Res Word :=
  match op with
  | .immediate v => .ok v
  | .register (.data n) => .ok (s.x (.data n))
  | .register (.addr _) => .error (.refuse .formNotAdmitted)
  | .indirect _ _ _ _ => .error (.refuse .formNotAdmitted)
  | .absolute _ => .error (.refuse .formNotAdmitted)
  | .address _ => .error (.refuse .formNotAdmitted)

/-- Resolve and read an operand (R148, first two lines): its value, and the state its addressing mode left. -/
def readSource (op : Operand) (sz : Size) (s : State) : Res (BitVec sz.bits × State) := do
  let l ← resolve op sz s
  let v ← readLoc l.1 sz l.2
  .ok (v, l.2)

/-- Resolve an operand and write it (a destination that is not read, R148). -/
def writeDest (op : Operand) (sz : Size) (v : BitVec sz.bits) (s : State) : Res State := do
  let l ← resolve op sz s
  writeLoc l.1 sz v l.2

/-- Read, compute, write back at the one location the operand resolved to, then the flags (R148, R149, R77). -/
def modifyDest (op : Operand) (sz : Size) (f : BitVec sz.bits → Flags → Computed sz.bits) (s : State) : Res State := do
  let l ← resolve op sz s
  let v ← readLoc l.1 sz l.2
  let r := f v l.2.flags
  let t ← writeLoc l.1 sz r.value l.2
  .ok (t.putFlags r.flags)

/-- The registers of a register list in the ascending order `D0 .. D7, A0 .. A7` (R102, R274). -/
def listedRegs (reglist : BitVec 16) : List Reg :=
  (List.finRange 16).filterMap fun i =>
    if reglist.getLsbD i.val then
      some (if h : i.val < 8 then .data ⟨i.val, h⟩ else .addr ⟨i.val - 8, by omega⟩)
    else none

end Sys2Proof.Machine
end

