-- ==== Sys2Proof/Machine/Address.lean ====
section
/-! DEFINITION. LEA, PEA, LINK, UNLK, MOVEM (spec/48_address_frame_movem.md R274 to R280). None changes a flag (R28). -/

namespace Sys2Proof.Machine

/-- R275: the address is computed and not accessed. -/
def leaBody (src dst : Operand) (s : State) : Res State := do
  let ea ← effAddr src s
  let r ← regOf dst
  .ok (s.putReg r ea .L).advance

/-- R276: the address is computed before the push. -/
def peaBody (src : Operand) (s : State) : Res State := do
  let ea ← effAddr src s
  let t ← push32 ea s
  .ok t.advance

/-- R277. -/
def linkBody (reg disp : Operand) (s : State) : Res State := do
  let r ← regOf reg
  let v ← immOf disp
  let s1 ← push32 (s.x r) s
  let s2 := s1.putReg r (s1.x .sp) .L
  .ok (s2.putReg .sp (s2.x .sp + v) .L).advance

/-- R278. -/
def unlkBody (reg : Operand) (s : State) : Res State := do
  let r ← regOf reg
  let s1 := s.putReg .sp (s.x r) .L
  let p ← pop32 s1
  .ok (p.2.putReg r p.1 .L).advance

/-- Store registers at ascending addresses (R279, the second loop). -/
def storeUp (sz : Size) : List Reg → Word → State → Res State
  | [], _, s => .ok s
  | r :: rest, addr, s => do
    let t ← memWrite addr sz ((s.x r).setWidth sz.bits) s
    storeUp sz rest (addr + BitVec.ofNat 32 sz.bytes) t

/-- Store registers, each below the previous one (R279, the first loop); the last address stored at is answered too. -/
def storeDown (sz : Size) : List Reg → Word → State → Res (Word × State)
  | [], addr, s => .ok (addr, s)
  | r :: rest, addr, s => do
    let below := addr - BitVec.ofNat 32 sz.bytes
    let t ← memWrite below sz ((s.x r).setWidth sz.bits) s
    storeDown sz rest below t

/-- Load registers from ascending addresses (R280); the address after the last one is answered too. -/
def loadUp (sz : Size) : List Reg → Word → State → Res (Word × State)
  | [], addr, s => .ok (addr, s)
  | r :: rest, addr, s => do
    let v ← memRead addr sz s
    let t ← regWrite r sz v s
    loadUp sz rest (addr + BitVec.ofNat 32 sz.bytes) t

/-- R279: descending with `-(An)`, ascending otherwise; `An` takes the last address stored at. -/
def movemStoreBody (sz : Size) (reglist : BitVec 16) (dst : Operand) (s : State) : Res State :=
  match dst with
  | .indirect n _ _ .pre => do
    let p ← storeDown sz (listedRegs reglist).reverse (s.x (.addr n)) s
    .ok (p.2.putReg (.addr n) p.1 .L).advance
  | .indirect n d ix .plain => do
    let t ← storeUp sz (listedRegs reglist) (plainAddress n d ix s) s
    .ok t.advance
  | .absolute addr => do
    let t ← storeUp sz (listedRegs reglist) addr s
    .ok t.advance
  | .indirect _ _ _ .post => .error (.refuse .formNotAdmitted)
  | .immediate _ => .error (.refuse .formNotAdmitted)
  | .register _ => .error (.refuse .formNotAdmitted)
  | .address _ => .error (.refuse .formNotAdmitted)

/-- R280: the address is computed once, before any register is loaded; with `(An)+`, `An` takes the address after the
last load. -/
def movemLoadBody (sz : Size) (src : Operand) (reglist : BitVec 16) (s : State) : Res State :=
  match src with
  | .indirect n _ _ .post => do
    let p ← loadUp sz (listedRegs reglist) (s.x (.addr n)) s
    .ok (p.2.putReg (.addr n) p.1 .L).advance
  | .indirect n d ix .plain => do
    let p ← loadUp sz (listedRegs reglist) (plainAddress n d ix s) s
    .ok p.2.advance
  | .absolute addr => do
    let p ← loadUp sz (listedRegs reglist) addr s
    .ok p.2.advance
  | .indirect _ _ _ .pre => .error (.refuse .formNotAdmitted)
  | .immediate _ => .error (.refuse .formNotAdmitted)
  | .register _ => .error (.refuse .formNotAdmitted)
  | .address _ => .error (.refuse .formNotAdmitted)

/-- LEA.L: R275. -/
def execLeaL (src dst : Operand) (s : State) : Result := runForm (.loadAddr src dst) (leaBody src dst) s

/-- PEA.L: R276. -/
def execPeaL (src : Operand) (s : State) : Result := runForm (.pushAddr src) (peaBody src) s

/-- LINK: R277. -/
def execLink (reg disp : Operand) (s : State) : Result := runForm (.link reg disp) (linkBody reg disp) s

/-- UNLK: R278. -/
def execUnlk (reg : Operand) (s : State) : Result := runForm (.unlink reg) (unlkBody reg) s

/-- MOVEM.W registers to memory: R274, R279. -/
def execMovemWStore (reglist : BitVec 16) (dst : Operand) (s : State) : Result := runForm (.storeRegs .W reglist dst) (movemStoreBody .W reglist dst) s

/-- MOVEM.L registers to memory: R274, R279. -/
def execMovemLStore (reglist : BitVec 16) (dst : Operand) (s : State) : Result := runForm (.storeRegs .L reglist dst) (movemStoreBody .L reglist dst) s

/-- MOVEM.W memory to registers: R274, R280. -/
def execMovemWLoad (src : Operand) (reglist : BitVec 16) (s : State) : Result := runForm (.loadRegs .W src reglist) (movemLoadBody .W src reglist) s

/-- MOVEM.L memory to registers: R274, R280. -/
def execMovemLLoad (src : Operand) (reglist : BitVec 16) (s : State) : Result := runForm (.loadRegs .L src reglist) (movemLoadBody .L src reglist) s

end Sys2Proof.Machine
end

