-- ==== Sys2Proof/Machine/Arith.lean ====
section
/-! DEFINITION. Addition, subtraction, comparison, negation (spec/42_add_sub_cmp_neg.md R180 to R190). -/

namespace Sys2Proof.Machine

/-- R182, R184, R185, R187: the destination becomes a function of source and destination, with its flags. -/
def arithBody (sz : Size) (f : BitVec sz.bits → BitVec sz.bits → Flags → Computed sz.bits) (src dst : Operand)
    (s : State) : Res State := do
  let a ← readSource src sz s
  let t ← modifyDest dst sz (f a.1) a.2
  .ok t.advance

/-- R183, R186: all 32 bits of the address register, the source sign-extended; no flag. -/
def addrArithBody (sz : Size) (f : Word → Word → Word) (src dst : Operand) (s : State) : Res State := do
  let a ← readSource src sz s
  let r ← regOf dst
  .ok (a.2.putReg r (f (a.2.x r) (a.1.signExtend 32)) .L).advance

/-- R188: `dv - s`, the result discarded; `X` unchanged. -/
def cmpBody (sz : Size) (src dst : Operand) (s : State) : Res State := do
  let a ← readSource src sz s
  let r ← regOf dst
  let dv ← regRead r sz a.2
  .ok (a.2.putFlags (cmpFlags a.1 dv a.2.flags)).advance

/-- R189: nothing written but the flags. -/
def tstBody (sz : Size) (dst : Operand) (s : State) : Res State := do
  let a ← readSource dst sz s
  .ok (a.2.putFlags (logicFlags a.1 a.2.flags)).advance

/-- R190: `0 - v`. -/
def negBody (sz : Size) (dst : Operand) (s : State) : Res State := do
  let t ← modifyDest dst sz (fun v f => subCompute v 0 f) s
  .ok t.advance

/-- ADD.B: R182. -/
def execAddB (src dst : Operand) (s : State) : Result := runForm (.addSub .B src dst) (arithBody .B addCompute src dst) s

/-- ADD.W: R182. -/
def execAddW (src dst : Operand) (s : State) : Result := runForm (.addSub .W src dst) (arithBody .W addCompute src dst) s

/-- ADD.L: R182. -/
def execAddL (src dst : Operand) (s : State) : Result := runForm (.addSub .L src dst) (arithBody .L addCompute src dst) s

/-- ADDQ.B: R184. -/
def execAddqB (src dst : Operand) (s : State) : Result := runForm (.quick .B src dst) (arithBody .B addCompute src dst) s

/-- ADDQ.W: R184. -/
def execAddqW (src dst : Operand) (s : State) : Result := runForm (.quick .W src dst) (arithBody .W addCompute src dst) s

/-- ADDQ.L: R184. -/
def execAddqL (src dst : Operand) (s : State) : Result := runForm (.quick .L src dst) (arithBody .L addCompute src dst) s

/-- SUB.B: R185. -/
def execSubB (src dst : Operand) (s : State) : Result := runForm (.addSub .B src dst) (arithBody .B subCompute src dst) s

/-- SUB.W: R185. -/
def execSubW (src dst : Operand) (s : State) : Result := runForm (.addSub .W src dst) (arithBody .W subCompute src dst) s

/-- SUB.L: R185. -/
def execSubL (src dst : Operand) (s : State) : Result := runForm (.addSub .L src dst) (arithBody .L subCompute src dst) s

/-- SUBQ.B: R187. -/
def execSubqB (src dst : Operand) (s : State) : Result := runForm (.quick .B src dst) (arithBody .B subCompute src dst) s

/-- SUBQ.W: R187. -/
def execSubqW (src dst : Operand) (s : State) : Result := runForm (.quick .W src dst) (arithBody .W subCompute src dst) s

/-- SUBQ.L: R187. -/
def execSubqL (src dst : Operand) (s : State) : Result := runForm (.quick .L src dst) (arithBody .L subCompute src dst) s

/-- ADDA.W: R183. -/
def execAddaW (src dst : Operand) (s : State) : Result := runForm (.toAddr .W src dst) (addrArithBody .W (fun a b => a + b) src dst) s

/-- ADDA.L: R183. -/
def execAddaL (src dst : Operand) (s : State) : Result := runForm (.toAddr .L src dst) (addrArithBody .L (fun a b => a + b) src dst) s

/-- SUBA.W: R186. -/
def execSubaW (src dst : Operand) (s : State) : Result := runForm (.toAddr .W src dst) (addrArithBody .W (fun a b => a - b) src dst) s

/-- SUBA.L: R186. -/
def execSubaL (src dst : Operand) (s : State) : Result := runForm (.toAddr .L src dst) (addrArithBody .L (fun a b => a - b) src dst) s

/-- CMP.B: R188. -/
def execCmpB (src dst : Operand) (s : State) : Result := runForm (.compare .B src dst) (cmpBody .B src dst) s

/-- CMP.W: R188. -/
def execCmpW (src dst : Operand) (s : State) : Result := runForm (.compare .W src dst) (cmpBody .W src dst) s

/-- CMP.L: R188. -/
def execCmpL (src dst : Operand) (s : State) : Result := runForm (.compare .L src dst) (cmpBody .L src dst) s

/-- TST.B: R189. -/
def execTstB (dst : Operand) (s : State) : Result := runForm (.unary .B dst) (tstBody .B dst) s

/-- TST.W: R189. -/
def execTstW (dst : Operand) (s : State) : Result := runForm (.unary .W dst) (tstBody .W dst) s

/-- TST.L: R189. -/
def execTstL (dst : Operand) (s : State) : Result := runForm (.unary .L dst) (tstBody .L dst) s

/-- NEG.B: R190. -/
def execNegB (dst : Operand) (s : State) : Result := runForm (.unary .B dst) (negBody .B dst) s

/-- NEG.W: R190. -/
def execNegW (dst : Operand) (s : State) : Result := runForm (.unary .W dst) (negBody .W dst) s

/-- NEG.L: R190. -/
def execNegL (dst : Operand) (s : State) : Result := runForm (.unary .L dst) (negBody .L dst) s

end Sys2Proof.Machine
end

