-- ==== Sys2Proof/Machine/Bit.lean ====
section
/-! DEFINITION. Single-bit instructions (spec/46_bit.md R240 to R244). -/

namespace Sys2Proof.Machine

/-- The operand with bit `k` as each instruction leaves it (R242 to R244); `BTST` leaves it alone (R241). -/
def bitResult {w : Nat} (op : BitOp) (k : Nat) (v : BitVec w) : BitVec w :=
  match op with
  | .tst => v
  | .chg => v ^^^ BitVec.twoPow w k
  | .clr => v &&& ~~~(BitVec.twoPow w k)
  | .set => v ||| BitVec.twoPow w k

/-- The write-back of `BCHG`, `BCLR`, `BSET`; `BTST` has none (R240). -/
def bitWriteBack (op : BitOp) (loc : Loc) (sz : Size) (v : BitVec sz.bits) (s : State) : Res State :=
  match op with
  | .tst => .ok s
  | .chg => writeLoc loc sz v s
  | .clr => writeLoc loc sz v s
  | .set => writeLoc loc sz v s

/-- R240: the bit number is read first and reduced modulo the operand's width; `Z` is written before the operand. -/
def bitBody (op : BitOp) (sz : Size) (bitnum dst : Operand) (s : State) : Res State := do
  let num ← numberOf bitnum s
  let k := num.toNat % sz.bits
  let l ← resolve dst sz s
  let v ← readLoc l.1 sz l.2
  let t := l.2.putFlags { l.2.flags with z := !v.getLsbD k }
  let u ← bitWriteBack op l.1 sz (bitResult op k v) t
  .ok u.advance

/-- BTST.L: R240, R241. -/
def execBtstL (bitnum dst : Operand) (s : State) : Result := runForm (.bit .L bitnum dst) (bitBody .tst .L bitnum dst) s

/-- BTST.B: R240, R241. -/
def execBtstB (bitnum dst : Operand) (s : State) : Result := runForm (.bit .B bitnum dst) (bitBody .tst .B bitnum dst) s

/-- BCHG.L: R240, R242. -/
def execBchgL (bitnum dst : Operand) (s : State) : Result := runForm (.bit .L bitnum dst) (bitBody .chg .L bitnum dst) s

/-- BCHG.B: R240, R242. -/
def execBchgB (bitnum dst : Operand) (s : State) : Result := runForm (.bit .B bitnum dst) (bitBody .chg .B bitnum dst) s

/-- BCLR.L: R240, R243. -/
def execBclrL (bitnum dst : Operand) (s : State) : Result := runForm (.bit .L bitnum dst) (bitBody .clr .L bitnum dst) s

/-- BCLR.B: R240, R243. -/
def execBclrB (bitnum dst : Operand) (s : State) : Result := runForm (.bit .B bitnum dst) (bitBody .clr .B bitnum dst) s

/-- BSET.L: R240, R244. -/
def execBsetL (bitnum dst : Operand) (s : State) : Result := runForm (.bit .L bitnum dst) (bitBody .set .L bitnum dst) s

/-- BSET.B: R240, R244. -/
def execBsetB (bitnum dst : Operand) (s : State) : Result := runForm (.bit .B bitnum dst) (bitBody .set .B bitnum dst) s

end Sys2Proof.Machine
end

