-- ==== Sys2Proof/Machine/Branch.lean ====
section
/-! DEFINITION. Branches, calls, DBcc, Scc (spec/47_branch_cond.md R250 to R257). None changes a flag (R28). -/

namespace Sys2Proof.Machine

/-- R251: the target when the condition holds, the next entry when it does not. -/
def branchBody (k : Cond) (target : Operand) (s : State) : Res State := do
  let t ← targetOf target
  .ok (if cond k s.flags then s.jump t else s.advance)

/-- R252. -/
def braBody (target : Operand) (s : State) : Res State := do
  let t ← targetOf target
  .ok (s.jump t)

/-- R253, R254: the target is computed before the return address `pc_before + 4` is pushed. -/
def callBody (target : State → Res Word) (s : State) : Res State := do
  let t ← target s
  let s1 ← push32 (s.pc + 4) s
  .ok ((s1.jump t).pushCall t (s.x .sp))

/-- R255. -/
def rtsBody (s : State) : Res State := do
  let p ← pop32 s
  .ok (p.2.jump p.1).popCall

/-- R256: on a false condition the low word of the counter is decremented, and the branch is taken unless it became -1. -/
def decBranchBody (k : Cond) (counter target : Operand) (s : State) : Res State := do
  let r ← regOf counter
  let t ← targetOf target
  if cond k s.flags then .ok s.advance
  else do
    let w : BitVec 16 := (s.x r).setWidth 16 - 1
    let s1 ← regWrite r .W w s
    .ok (if w = 0xFFFF then s1.advance else s1.jump t)

/-- R257: a byte of ones or of zeros; the destination is not read. -/
def setBody (k : Cond) (dst : Operand) (s : State) : Res State := do
  let t ← writeDest dst .B (if cond k s.flags then 0xFF else 0) s
  .ok t.advance

/-- BT: R251. -/
def execBt (target : Operand) (s : State) : Result := runForm (.branch target) (branchBody .t target) s

/-- BF: R251. -/
def execBf (target : Operand) (s : State) : Result := runForm (.branch target) (branchBody .f target) s

/-- BHI: R251. -/
def execBhi (target : Operand) (s : State) : Result := runForm (.branch target) (branchBody .hi target) s

/-- BLS: R251. -/
def execBls (target : Operand) (s : State) : Result := runForm (.branch target) (branchBody .ls target) s

/-- BCC: R251. -/
def execBcc (target : Operand) (s : State) : Result := runForm (.branch target) (branchBody .cc target) s

/-- BCS: R251. -/
def execBcs (target : Operand) (s : State) : Result := runForm (.branch target) (branchBody .cs target) s

/-- BNE: R251. -/
def execBne (target : Operand) (s : State) : Result := runForm (.branch target) (branchBody .ne target) s

/-- BEQ: R251. -/
def execBeq (target : Operand) (s : State) : Result := runForm (.branch target) (branchBody .eq target) s

/-- BVC: R251. -/
def execBvc (target : Operand) (s : State) : Result := runForm (.branch target) (branchBody .vc target) s

/-- BVS: R251. -/
def execBvs (target : Operand) (s : State) : Result := runForm (.branch target) (branchBody .vs target) s

/-- BPL: R251. -/
def execBpl (target : Operand) (s : State) : Result := runForm (.branch target) (branchBody .pl target) s

/-- BMI: R251. -/
def execBmi (target : Operand) (s : State) : Result := runForm (.branch target) (branchBody .mi target) s

/-- BGE: R251. -/
def execBge (target : Operand) (s : State) : Result := runForm (.branch target) (branchBody .ge target) s

/-- BLT: R251. -/
def execBlt (target : Operand) (s : State) : Result := runForm (.branch target) (branchBody .lt target) s

/-- BGT: R251. -/
def execBgt (target : Operand) (s : State) : Result := runForm (.branch target) (branchBody .gt target) s

/-- BLE: R251. -/
def execBle (target : Operand) (s : State) : Result := runForm (.branch target) (branchBody .le target) s

/-- BRA: R252. -/
def execBra (target : Operand) (s : State) : Result := runForm (.branch target) (braBody target) s

/-- BSR: R253. -/
def execBsr (target : Operand) (s : State) : Result := runForm (.branch target) (callBody (fun _ => targetOf target)) s

/-- JSR: R254. -/
def execJsr (target : Operand) (s : State) : Result := runForm (.jump target) (callBody (effAddr target)) s

/-- RTS: R255. -/
def execRts (s : State) : Result := runForm (.bare) (rtsBody) s

/-- DBT.W: R256. -/
def execDbtW (counter target : Operand) (s : State) : Result := runForm (.decBranch counter target) (decBranchBody .t counter target) s

/-- DBF.W: R256. -/
def execDbfW (counter target : Operand) (s : State) : Result := runForm (.decBranch counter target) (decBranchBody .f counter target) s

/-- DBHI.W: R256. -/
def execDbhiW (counter target : Operand) (s : State) : Result := runForm (.decBranch counter target) (decBranchBody .hi counter target) s

/-- DBLS.W: R256. -/
def execDblsW (counter target : Operand) (s : State) : Result := runForm (.decBranch counter target) (decBranchBody .ls counter target) s

/-- DBCC.W: R256. -/
def execDbccW (counter target : Operand) (s : State) : Result := runForm (.decBranch counter target) (decBranchBody .cc counter target) s

/-- DBCS.W: R256. -/
def execDbcsW (counter target : Operand) (s : State) : Result := runForm (.decBranch counter target) (decBranchBody .cs counter target) s

/-- DBNE.W: R256. -/
def execDbneW (counter target : Operand) (s : State) : Result := runForm (.decBranch counter target) (decBranchBody .ne counter target) s

/-- DBEQ.W: R256. -/
def execDbeqW (counter target : Operand) (s : State) : Result := runForm (.decBranch counter target) (decBranchBody .eq counter target) s

/-- DBVC.W: R256. -/
def execDbvcW (counter target : Operand) (s : State) : Result := runForm (.decBranch counter target) (decBranchBody .vc counter target) s

/-- DBVS.W: R256. -/
def execDbvsW (counter target : Operand) (s : State) : Result := runForm (.decBranch counter target) (decBranchBody .vs counter target) s

/-- DBPL.W: R256. -/
def execDbplW (counter target : Operand) (s : State) : Result := runForm (.decBranch counter target) (decBranchBody .pl counter target) s

/-- DBMI.W: R256. -/
def execDbmiW (counter target : Operand) (s : State) : Result := runForm (.decBranch counter target) (decBranchBody .mi counter target) s

/-- DBGE.W: R256. -/
def execDbgeW (counter target : Operand) (s : State) : Result := runForm (.decBranch counter target) (decBranchBody .ge counter target) s

/-- DBLT.W: R256. -/
def execDbltW (counter target : Operand) (s : State) : Result := runForm (.decBranch counter target) (decBranchBody .lt counter target) s

/-- DBGT.W: R256. -/
def execDbgtW (counter target : Operand) (s : State) : Result := runForm (.decBranch counter target) (decBranchBody .gt counter target) s

/-- DBLE.W: R256. -/
def execDbleW (counter target : Operand) (s : State) : Result := runForm (.decBranch counter target) (decBranchBody .le counter target) s

/-- ST.B: R257. -/
def execStB (dst : Operand) (s : State) : Result := runForm (.setByte dst) (setBody .t dst) s

/-- SF.B: R257. -/
def execSfB (dst : Operand) (s : State) : Result := runForm (.setByte dst) (setBody .f dst) s

/-- SHI.B: R257. -/
def execShiB (dst : Operand) (s : State) : Result := runForm (.setByte dst) (setBody .hi dst) s

/-- SLS.B: R257. -/
def execSlsB (dst : Operand) (s : State) : Result := runForm (.setByte dst) (setBody .ls dst) s

/-- SCC.B: R257. -/
def execSccB (dst : Operand) (s : State) : Result := runForm (.setByte dst) (setBody .cc dst) s

/-- SCS.B: R257. -/
def execScsB (dst : Operand) (s : State) : Result := runForm (.setByte dst) (setBody .cs dst) s

/-- SNE.B: R257. -/
def execSneB (dst : Operand) (s : State) : Result := runForm (.setByte dst) (setBody .ne dst) s

/-- SEQ.B: R257. -/
def execSeqB (dst : Operand) (s : State) : Result := runForm (.setByte dst) (setBody .eq dst) s

/-- SVC.B: R257. -/
def execSvcB (dst : Operand) (s : State) : Result := runForm (.setByte dst) (setBody .vc dst) s

/-- SVS.B: R257. -/
def execSvsB (dst : Operand) (s : State) : Result := runForm (.setByte dst) (setBody .vs dst) s

/-- SPL.B: R257. -/
def execSplB (dst : Operand) (s : State) : Result := runForm (.setByte dst) (setBody .pl dst) s

/-- SMI.B: R257. -/
def execSmiB (dst : Operand) (s : State) : Result := runForm (.setByte dst) (setBody .mi dst) s

/-- SGE.B: R257. -/
def execSgeB (dst : Operand) (s : State) : Result := runForm (.setByte dst) (setBody .ge dst) s

/-- SLT.B: R257. -/
def execSltB (dst : Operand) (s : State) : Result := runForm (.setByte dst) (setBody .lt dst) s

/-- SGT.B: R257. -/
def execSgtB (dst : Operand) (s : State) : Result := runForm (.setByte dst) (setBody .gt dst) s

/-- SLE.B: R257. -/
def execSleB (dst : Operand) (s : State) : Result := runForm (.setByte dst) (setBody .le dst) s

end Sys2Proof.Machine
end

