-- ==== Sys2Proof/Machine/Logic.lean ====
section
/-! DEFINITION. Logic, sign extension, swap (spec/44_logic_ext_swap.md R210 to R216). -/

namespace Sys2Proof.Machine

/-- A logic result with `LogicFlags` (R210). -/
def logicCompute {w : Nat} (r : BitVec w) (f : Flags) : Computed w := { value := r, flags := logicFlags r f }

/-- R211 to R213: a bitwise function of source and destination. -/
def logicBody (sz : Size) (f : BitVec sz.bits → BitVec sz.bits → BitVec sz.bits) (src dst : Operand) (s : State) :
    Res State := do
  let a ← readSource src sz s
  let t ← modifyDest dst sz (fun dv fl => logicCompute (f a.1 dv) fl) a.2
  .ok t.advance

/-- R214: every bit inverted. -/
def notBody (sz : Size) (dst : Operand) (s : State) : Res State := do
  let t ← modifyDest dst sz (fun v fl => logicCompute (~~~v) fl) s
  .ok t.advance

/-- R215: the low byte extended to a word (`W`), the low word to a long (`L`). -/
def extBody (sz : Size) (dst : Operand) (s : State) : Res State := do
  let t ← modifyDest dst sz (fun v fl => logicCompute ((v.setWidth (sz.bits / 2)).signExtend sz.bits) fl) s
  .ok t.advance

/-- R216: the two halves exchanged, on all 32 bits. -/
def swapBody (dst : Operand) (s : State) : Res State := do
  let t ← modifyDest dst .L (fun v fl => logicCompute (v.extractLsb' 0 16 ++ v.extractLsb' 16 16) fl) s
  .ok t.advance

/-- AND.B: R211. -/
def execAndB (src dst : Operand) (s : State) : Result := runForm (.andOr .B src dst) (logicBody .B (fun a b => a &&& b) src dst) s

/-- AND.W: R211. -/
def execAndW (src dst : Operand) (s : State) : Result := runForm (.andOr .W src dst) (logicBody .W (fun a b => a &&& b) src dst) s

/-- AND.L: R211. -/
def execAndL (src dst : Operand) (s : State) : Result := runForm (.andOr .L src dst) (logicBody .L (fun a b => a &&& b) src dst) s

/-- OR.B: R212. -/
def execOrB (src dst : Operand) (s : State) : Result := runForm (.andOr .B src dst) (logicBody .B (fun a b => a ||| b) src dst) s

/-- OR.W: R212. -/
def execOrW (src dst : Operand) (s : State) : Result := runForm (.andOr .W src dst) (logicBody .W (fun a b => a ||| b) src dst) s

/-- OR.L: R212. -/
def execOrL (src dst : Operand) (s : State) : Result := runForm (.andOr .L src dst) (logicBody .L (fun a b => a ||| b) src dst) s

/-- EOR.B: R213. -/
def execEorB (src dst : Operand) (s : State) : Result := runForm (.eor .B src dst) (logicBody .B (fun a b => a ^^^ b) src dst) s

/-- EOR.W: R213. -/
def execEorW (src dst : Operand) (s : State) : Result := runForm (.eor .W src dst) (logicBody .W (fun a b => a ^^^ b) src dst) s

/-- EOR.L: R213. -/
def execEorL (src dst : Operand) (s : State) : Result := runForm (.eor .L src dst) (logicBody .L (fun a b => a ^^^ b) src dst) s

/-- NOT.B: R214. -/
def execNotB (dst : Operand) (s : State) : Result := runForm (.unary .B dst) (notBody .B dst) s

/-- NOT.W: R214. -/
def execNotW (dst : Operand) (s : State) : Result := runForm (.unary .W dst) (notBody .W dst) s

/-- NOT.L: R214. -/
def execNotL (dst : Operand) (s : State) : Result := runForm (.unary .L dst) (notBody .L dst) s

/-- EXT.W: R215. -/
def execExtW (dst : Operand) (s : State) : Result := runForm (.dataReg dst) (extBody .W dst) s

/-- EXT.L: R215. -/
def execExtL (dst : Operand) (s : State) : Result := runForm (.dataReg dst) (extBody .L dst) s

/-- SWAP.W: R216. -/
def execSwapW (dst : Operand) (s : State) : Result := runForm (.dataReg dst) (swapBody dst) s

end Sys2Proof.Machine
end

