-- ==== Sys2Proof/Machine/Move.lean ====
section
/-! DEFINITION. Data movement (spec/41_move.md): MOVE (R170), MOVEQ (R171). -/

namespace Sys2Proof.Machine

/-- R170. -/
def moveBody (sz : Size) (src dst : Operand) (s : State) : Res State := do
  let a ← readSource src sz s
  let t ← writeDest dst sz a.1 a.2
  .ok (t.putFlags (logicFlags a.1 t.flags)).advance

/-- R171: only `v[7:0]` is read. -/
def moveqBody (src dst : Operand) (s : State) : Res State := do
  let v ← immOf src
  let r ← regOf dst
  let value := (v.setWidth 8).signExtend 32
  let t ← regWrite r .L value s
  .ok (t.putFlags (logicFlags value t.flags)).advance

/-- MOVE.B: R170. -/
def execMoveB (src dst : Operand) (s : State) : Result := runForm (.move .B src dst) (moveBody .B src dst) s

/-- MOVE.W: R170. -/
def execMoveW (src dst : Operand) (s : State) : Result := runForm (.move .W src dst) (moveBody .W src dst) s

/-- MOVE.L: R170. -/
def execMoveL (src dst : Operand) (s : State) : Result := runForm (.move .L src dst) (moveBody .L src dst) s

/-- MOVEQ.L: R171. -/
def execMoveqL (src dst : Operand) (s : State) : Result := runForm (.moveq src dst) (moveqBody src dst) s

end Sys2Proof.Machine
end

