-- ==== Sys2Proof/Machine/MulDiv.lean ====
section
/-! DEFINITION. Multiplication and division (spec/43_mul_div.md R200 to R204). -/

namespace Sys2Proof.Machine

/-- The product, or the remainder and quotient, of a 16-bit source and a 32-bit register: a result for the whole register
with the value `N` and `Z` are taken from, or a fault (R200). -/
structure MulDivResult where
  register : Word
  negative : Bool
  zero     : Bool
  deriving DecidableEq, Repr

/-- R201: the exact signed product of the two words, narrowed to 32 bits. -/
def mulsResult (src : BitVec 16) (old : Word) : Res MulDivResult :=
  let r := BitVec.ofInt 32 (src.toInt * (old.setWidth 16).toInt)
  .ok { register := r, negative := r.msb, zero := r = 0 }

/-- R202: the exact unsigned product of the two words. -/
def muluResult (src : BitVec 16) (old : Word) : Res MulDivResult :=
  let r := BitVec.ofNat 32 (src.toNat * (old.setWidth 16).toNat)
  .ok { register := r, negative := r.msb, zero := r = 0 }

/-- R203: the quotient rounded toward zero; the divisor is tested before the quotient (R200 (e)). -/
def divsResult (src : BitVec 16) (old : Word) : Res MulDivResult :=
  if src = 0 then .error (.raise .divisionByZero)
  else
    let q := Int.tdiv old.toInt src.toInt
    let rem := old.toInt - q * src.toInt
    if q < -32768 || 32767 < q then .error (.raise .divisionOverflow)
    else .ok { register := BitVec.ofInt 16 rem ++ BitVec.ofInt 16 q, negative := q < 0, zero := q = 0 }

/-- R204. -/
def divuResult (src : BitVec 16) (old : Word) : Res MulDivResult :=
  if src = 0 then .error (.raise .divisionByZero)
  else
    let q := old.toNat / src.toNat
    let rem := old.toNat % src.toNat
    if 0xFFFF < q then .error (.raise .divisionOverflow)
    else
      let low := BitVec.ofNat 16 q
      .ok { register := BitVec.ofNat 16 rem ++ low, negative := low.msb, zero := q = 0 }

/-- R201 to R204: source resolved and read first (R200 (e)), then the computation, then the register, then the flags
(`V = C = 0`, `X` unchanged). -/
def mulDivBody (f : BitVec 16 → Word → Res MulDivResult) (src dst : Operand) (s : State) : Res State := do
  let a ← readSource src .W s
  let r ← regOf dst
  let out ← f a.1 (a.2.x r)
  let t := a.2.putReg r out.register .L
  .ok (t.putFlags { x := t.flags.x, n := out.negative, z := out.zero, v := false, c := false }).advance

/-- MULS.W: R201. -/
def execMulsW (src dst : Operand) (s : State) : Result := runForm (.mulDiv src dst) (mulDivBody mulsResult src dst) s

/-- MULU.W: R202. -/
def execMuluW (src dst : Operand) (s : State) : Result := runForm (.mulDiv src dst) (mulDivBody muluResult src dst) s

/-- DIVS.W: R203. -/
def execDivsW (src dst : Operand) (s : State) : Result := runForm (.mulDiv src dst) (mulDivBody divsResult src dst) s

/-- DIVU.W: R204. -/
def execDivuW (src dst : Operand) (s : State) : Result := runForm (.mulDiv src dst) (mulDivBody divuResult src dst) s

end Sys2Proof.Machine
end

