-- ==== Sys2Proof/Machine/Shift.lean ====
section
/-! DEFINITION. Shifts and rotates (spec/45_shift_rotate.md R225 to R232). -/

namespace Sys2Proof.Machine

/-- The count of the register form: the immediate, or the low six bits of `Dm` (R225). -/
def shiftCount (count : Operand) (s : State) : Res Nat :=
  match count with
  | .immediate v => .ok v.toNat
  | .register (.data m) => .ok ((s.x (.data m)).toNat % 64)
  | .register (.addr _) => .error (.refuse .formNotAdmitted)
  | .indirect _ _ _ _ => .error (.refuse .formNotAdmitted)
  | .absolute _ => .error (.refuse .formNotAdmitted)
  | .address _ => .error (.refuse .formNotAdmitted)

/-- The three forms of R225: count and `Dn`, or one memory operand shifted by 1. -/
def shiftBody (op : ShiftOp) (sz : Size) (args : ShiftArgs) (s : State) : Res State :=
  match args with
  | .counted count dst => do
    let c ← shiftCount count s
    let t ← modifyDest dst sz (shiftCompute op c) s
    .ok t.advance
  | .memory dst => do
    let t ← modifyDest dst sz (shiftCompute op 1) s
    .ok t.advance

/-- ASL.B: R225, R226, R227. -/
def execAslB (args : ShiftArgs) (s : State) : Result := runForm (.shift .B args) (shiftBody .asl .B args) s

/-- ASL.W: R225, R226, R227. -/
def execAslW (args : ShiftArgs) (s : State) : Result := runForm (.shift .W args) (shiftBody .asl .W args) s

/-- ASL.L: R225, R226, R227. -/
def execAslL (args : ShiftArgs) (s : State) : Result := runForm (.shift .L args) (shiftBody .asl .L args) s

/-- ASR.B: R225, R226, R228. -/
def execAsrB (args : ShiftArgs) (s : State) : Result := runForm (.shift .B args) (shiftBody .asr .B args) s

/-- ASR.W: R225, R226, R228. -/
def execAsrW (args : ShiftArgs) (s : State) : Result := runForm (.shift .W args) (shiftBody .asr .W args) s

/-- ASR.L: R225, R226, R228. -/
def execAsrL (args : ShiftArgs) (s : State) : Result := runForm (.shift .L args) (shiftBody .asr .L args) s

/-- LSL.B: R225, R226, R229. -/
def execLslB (args : ShiftArgs) (s : State) : Result := runForm (.shift .B args) (shiftBody .lsl .B args) s

/-- LSL.W: R225, R226, R229. -/
def execLslW (args : ShiftArgs) (s : State) : Result := runForm (.shift .W args) (shiftBody .lsl .W args) s

/-- LSL.L: R225, R226, R229. -/
def execLslL (args : ShiftArgs) (s : State) : Result := runForm (.shift .L args) (shiftBody .lsl .L args) s

/-- LSR.B: R225, R226, R230. -/
def execLsrB (args : ShiftArgs) (s : State) : Result := runForm (.shift .B args) (shiftBody .lsr .B args) s

/-- LSR.W: R225, R226, R230. -/
def execLsrW (args : ShiftArgs) (s : State) : Result := runForm (.shift .W args) (shiftBody .lsr .W args) s

/-- LSR.L: R225, R226, R230. -/
def execLsrL (args : ShiftArgs) (s : State) : Result := runForm (.shift .L args) (shiftBody .lsr .L args) s

/-- ROL.B: R225, R226, R231. -/
def execRolB (args : ShiftArgs) (s : State) : Result := runForm (.shift .B args) (shiftBody .rol .B args) s

/-- ROL.W: R225, R226, R231. -/
def execRolW (args : ShiftArgs) (s : State) : Result := runForm (.shift .W args) (shiftBody .rol .W args) s

/-- ROL.L: R225, R226, R231. -/
def execRolL (args : ShiftArgs) (s : State) : Result := runForm (.shift .L args) (shiftBody .rol .L args) s

/-- ROR.B: R225, R226, R232. -/
def execRorB (args : ShiftArgs) (s : State) : Result := runForm (.shift .B args) (shiftBody .ror .B args) s

/-- ROR.W: R225, R226, R232. -/
def execRorW (args : ShiftArgs) (s : State) : Result := runForm (.shift .W args) (shiftBody .ror .W args) s

/-- ROR.L: R225, R226, R232. -/
def execRorL (args : ShiftArgs) (s : State) : Result := runForm (.shift .L args) (shiftBody .ror .L args) s

end Sys2Proof.Machine
end

