-- ==== Sys2Proof/Machine/Trap.lean ====
section
/-! DEFINITION. TRAP #15, the request to the host (spec/49_trap15.md R290 to R301). The answer is in HostCalls.lean. -/

namespace Sys2Proof.Machine

/-- Trap entry (R316): the request record in the slot, the status Interrupt, nothing saved and nothing else changed. -/
def State.enterInterrupt (s : State) (r : Interrupt) : State :=
  { s with curInterrupt := some r, status := .interrupt }

/-- The task table (R291 to R300): the task is all 32 bits of `d[0]`; strings and numbers are sampled now. -/
def trapTask (task : Nat) (s : State) : Res State :=
  let d1 := s.x (.data 1)
  let a1 := s.x (.addr 1)
  match task with
  | 0 => do
    let bytes ← memReadBytes a1 (d1.setWidth 16).toNat s
    .ok (s.enterInterrupt (.displayStringWithCRLF bytes))
  | 1 => do
    let bytes ← memReadBytes a1 (d1.setWidth 16).toNat s
    .ok (s.enterInterrupt (.displayStringWithoutCRLF bytes))
  | 2 => .ok (s.enterInterrupt .readKeyboardString)
  | 3 => .ok (s.enterInterrupt (.displayNumber d1.toInt))
  | 4 => .ok (s.enterInterrupt .readNumber)
  | 5 => .ok (s.enterInterrupt .readChar)
  | 6 => .ok (s.enterInterrupt (.displayChar (d1.setWidth 8)))
  | 8 => .ok (s.enterInterrupt .getTime)
  | 9 => .ok { s with status := .terminated }
  | _ => .error (.raise .illegalInstruction)

/-- R290: the vector is checked first, then the task (R314 (f)); `pc` advances past the trap. -/
def trapBody (vector : Operand) (s : State) : Res State := do
  let v ← immOf vector
  if v.toNat = Config.trapVector then do
    let t ← trapTask (s.x (.data 0)).toNat s
    .ok t.advance
  else .error (.raise .illegalInstruction)

/-- TRAP: R290. -/
def execTrap (vector : Operand) (s : State) : Result := runForm (.trap vector) (trapBody vector) s

end Sys2Proof.Machine
end

