-- ==== Sys2Proof/Machine/Dispatch.lean ====
section
/-! DEFINITION. The selection of the meaning by the instruction (spec/40_step_and_operands.md R130). -/

namespace Sys2Proof.Machine

-- One arm for each row of spec/opcode_table.json, in the table's order.
def exec (i : Instr) (s : State) : Host.Outcome State Fault Refusal :=
  match i with
  | .moveB src dst => Sys2Proof.Machine.execMoveB src dst s
  | .moveW src dst => Sys2Proof.Machine.execMoveW src dst s
  | .moveL src dst => Sys2Proof.Machine.execMoveL src dst s
  | .moveqL src dst => Sys2Proof.Machine.execMoveqL src dst s
  | .addB src dst => Sys2Proof.Machine.execAddB src dst s
  | .addW src dst => Sys2Proof.Machine.execAddW src dst s
  | .addL src dst => Sys2Proof.Machine.execAddL src dst s
  | .addqB src dst => Sys2Proof.Machine.execAddqB src dst s
  | .addqW src dst => Sys2Proof.Machine.execAddqW src dst s
  | .addqL src dst => Sys2Proof.Machine.execAddqL src dst s
  | .addaW src dst => Sys2Proof.Machine.execAddaW src dst s
  | .addaL src dst => Sys2Proof.Machine.execAddaL src dst s
  | .subB src dst => Sys2Proof.Machine.execSubB src dst s
  | .subW src dst => Sys2Proof.Machine.execSubW src dst s
  | .subL src dst => Sys2Proof.Machine.execSubL src dst s
  | .subqB src dst => Sys2Proof.Machine.execSubqB src dst s
  | .subqW src dst => Sys2Proof.Machine.execSubqW src dst s
  | .subqL src dst => Sys2Proof.Machine.execSubqL src dst s
  | .subaW src dst => Sys2Proof.Machine.execSubaW src dst s
  | .subaL src dst => Sys2Proof.Machine.execSubaL src dst s
  | .cmpB src dst => Sys2Proof.Machine.execCmpB src dst s
  | .cmpW src dst => Sys2Proof.Machine.execCmpW src dst s
  | .cmpL src dst => Sys2Proof.Machine.execCmpL src dst s
  | .tstB dst => Sys2Proof.Machine.execTstB dst s
  | .tstW dst => Sys2Proof.Machine.execTstW dst s
  | .tstL dst => Sys2Proof.Machine.execTstL dst s
  | .mulsW src dst => Sys2Proof.Machine.execMulsW src dst s
  | .muluW src dst => Sys2Proof.Machine.execMuluW src dst s
  | .divsW src dst => Sys2Proof.Machine.execDivsW src dst s
  | .divuW src dst => Sys2Proof.Machine.execDivuW src dst s
  | .andB src dst => Sys2Proof.Machine.execAndB src dst s
  | .andW src dst => Sys2Proof.Machine.execAndW src dst s
  | .andL src dst => Sys2Proof.Machine.execAndL src dst s
  | .orB src dst => Sys2Proof.Machine.execOrB src dst s
  | .orW src dst => Sys2Proof.Machine.execOrW src dst s
  | .orL src dst => Sys2Proof.Machine.execOrL src dst s
  | .eorB src dst => Sys2Proof.Machine.execEorB src dst s
  | .eorW src dst => Sys2Proof.Machine.execEorW src dst s
  | .eorL src dst => Sys2Proof.Machine.execEorL src dst s
  | .notB dst => Sys2Proof.Machine.execNotB dst s
  | .notW dst => Sys2Proof.Machine.execNotW dst s
  | .notL dst => Sys2Proof.Machine.execNotL dst s
  | .aslB args => Sys2Proof.Machine.execAslB args s
  | .aslW args => Sys2Proof.Machine.execAslW args s
  | .aslL args => Sys2Proof.Machine.execAslL args s
  | .asrB args => Sys2Proof.Machine.execAsrB args s
  | .asrW args => Sys2Proof.Machine.execAsrW args s
  | .asrL args => Sys2Proof.Machine.execAsrL args s
  | .lslB args => Sys2Proof.Machine.execLslB args s
  | .lslW args => Sys2Proof.Machine.execLslW args s
  | .lslL args => Sys2Proof.Machine.execLslL args s
  | .lsrB args => Sys2Proof.Machine.execLsrB args s
  | .lsrW args => Sys2Proof.Machine.execLsrW args s
  | .lsrL args => Sys2Proof.Machine.execLsrL args s
  | .rolB args => Sys2Proof.Machine.execRolB args s
  | .rolW args => Sys2Proof.Machine.execRolW args s
  | .rolL args => Sys2Proof.Machine.execRolL args s
  | .rorB args => Sys2Proof.Machine.execRorB args s
  | .rorW args => Sys2Proof.Machine.execRorW args s
  | .rorL args => Sys2Proof.Machine.execRorL args s
  | .negB dst => Sys2Proof.Machine.execNegB dst s
  | .negW dst => Sys2Proof.Machine.execNegW dst s
  | .negL dst => Sys2Proof.Machine.execNegL dst s
  | .extW dst => Sys2Proof.Machine.execExtW dst s
  | .extL dst => Sys2Proof.Machine.execExtL dst s
  | .swapW dst => Sys2Proof.Machine.execSwapW dst s
  | .btstL bitnum dst => Sys2Proof.Machine.execBtstL bitnum dst s
  | .btstB bitnum dst => Sys2Proof.Machine.execBtstB bitnum dst s
  | .bclrL bitnum dst => Sys2Proof.Machine.execBclrL bitnum dst s
  | .bclrB bitnum dst => Sys2Proof.Machine.execBclrB bitnum dst s
  | .bsetL bitnum dst => Sys2Proof.Machine.execBsetL bitnum dst s
  | .bsetB bitnum dst => Sys2Proof.Machine.execBsetB bitnum dst s
  | .bchgL bitnum dst => Sys2Proof.Machine.execBchgL bitnum dst s
  | .bchgB bitnum dst => Sys2Proof.Machine.execBchgB bitnum dst s
  | .bt target => Sys2Proof.Machine.execBt target s
  | .bf target => Sys2Proof.Machine.execBf target s
  | .bhi target => Sys2Proof.Machine.execBhi target s
  | .bls target => Sys2Proof.Machine.execBls target s
  | .bcc target => Sys2Proof.Machine.execBcc target s
  | .bcs target => Sys2Proof.Machine.execBcs target s
  | .bne target => Sys2Proof.Machine.execBne target s
  | .beq target => Sys2Proof.Machine.execBeq target s
  | .bvc target => Sys2Proof.Machine.execBvc target s
  | .bvs target => Sys2Proof.Machine.execBvs target s
  | .bpl target => Sys2Proof.Machine.execBpl target s
  | .bmi target => Sys2Proof.Machine.execBmi target s
  | .bge target => Sys2Proof.Machine.execBge target s
  | .blt target => Sys2Proof.Machine.execBlt target s
  | .bgt target => Sys2Proof.Machine.execBgt target s
  | .ble target => Sys2Proof.Machine.execBle target s
  | .bra target => Sys2Proof.Machine.execBra target s
  | .bsr target => Sys2Proof.Machine.execBsr target s
  | .jsr target => Sys2Proof.Machine.execJsr target s
  | .rts => Sys2Proof.Machine.execRts s
  | .dbtW counter target => Sys2Proof.Machine.execDbtW counter target s
  | .dbfW counter target => Sys2Proof.Machine.execDbfW counter target s
  | .dbhiW counter target => Sys2Proof.Machine.execDbhiW counter target s
  | .dblsW counter target => Sys2Proof.Machine.execDblsW counter target s
  | .dbccW counter target => Sys2Proof.Machine.execDbccW counter target s
  | .dbcsW counter target => Sys2Proof.Machine.execDbcsW counter target s
  | .dbneW counter target => Sys2Proof.Machine.execDbneW counter target s
  | .dbeqW counter target => Sys2Proof.Machine.execDbeqW counter target s
  | .dbvcW counter target => Sys2Proof.Machine.execDbvcW counter target s
  | .dbvsW counter target => Sys2Proof.Machine.execDbvsW counter target s
  | .dbplW counter target => Sys2Proof.Machine.execDbplW counter target s
  | .dbmiW counter target => Sys2Proof.Machine.execDbmiW counter target s
  | .dbgeW counter target => Sys2Proof.Machine.execDbgeW counter target s
  | .dbltW counter target => Sys2Proof.Machine.execDbltW counter target s
  | .dbgtW counter target => Sys2Proof.Machine.execDbgtW counter target s
  | .dbleW counter target => Sys2Proof.Machine.execDbleW counter target s
  | .stB dst => Sys2Proof.Machine.execStB dst s
  | .sfB dst => Sys2Proof.Machine.execSfB dst s
  | .shiB dst => Sys2Proof.Machine.execShiB dst s
  | .slsB dst => Sys2Proof.Machine.execSlsB dst s
  | .sccB dst => Sys2Proof.Machine.execSccB dst s
  | .scsB dst => Sys2Proof.Machine.execScsB dst s
  | .sneB dst => Sys2Proof.Machine.execSneB dst s
  | .seqB dst => Sys2Proof.Machine.execSeqB dst s
  | .svcB dst => Sys2Proof.Machine.execSvcB dst s
  | .svsB dst => Sys2Proof.Machine.execSvsB dst s
  | .splB dst => Sys2Proof.Machine.execSplB dst s
  | .smiB dst => Sys2Proof.Machine.execSmiB dst s
  | .sgeB dst => Sys2Proof.Machine.execSgeB dst s
  | .sltB dst => Sys2Proof.Machine.execSltB dst s
  | .sgtB dst => Sys2Proof.Machine.execSgtB dst s
  | .sleB dst => Sys2Proof.Machine.execSleB dst s
  | .leaL src dst => Sys2Proof.Machine.execLeaL src dst s
  | .peaL src => Sys2Proof.Machine.execPeaL src s
  | .link reg disp => Sys2Proof.Machine.execLink reg disp s
  | .unlk reg => Sys2Proof.Machine.execUnlk reg s
  | .movemWStore reglist dst => Sys2Proof.Machine.execMovemWStore reglist dst s
  | .movemLStore reglist dst => Sys2Proof.Machine.execMovemLStore reglist dst s
  | .movemWLoad src reglist => Sys2Proof.Machine.execMovemWLoad src reglist s
  | .movemLLoad src reglist => Sys2Proof.Machine.execMovemLLoad src reglist s
  | .trap vector => Sys2Proof.Machine.execTrap vector s

end Sys2Proof.Machine
end

