-- ==== Sys2Proof/Machine/Fetch.lean ====
section
/-! DEFINITION. The instruction table as the engine reads it: fetch (spec/40_step_and_operands.md R131), the end of the
program (R133), the history entry of a step (R130, spec/60_exceptions.md R326, R328), and the place of an entry. -/

namespace Sys2Proof.Machine

/-- `INSTR_END = INSTR_BASE + 4 * N_INSTR`, with `INSTR_BASE = 0` (R5, R91). -/
def instrEnd (p : Program) : Nat := 4 * p.lines.length

/-- `Fetch(p)`: the entry at address `p = 4k`, `k < N_INSTR`, or none (R131). -/
def fetch (s : State) : Option InstructionLine :=
  if s.pc.toNat % 4 = 0 then s.program.lines[s.pc.toNat / 4]? else none

/-- `EndCheck()` (R133): equality with `INSTR_END`. A table that ends at `2^32` has an end no 32-bit `pc` equals (log 32). -/
def endCheck (s : State) : State :=
  if s.status = .running && s.pc.toNat = instrEnd s.program then
    { s with status := .terminated, reachedBottom := true }
  else s

/-- The history entry of a step closed: kept in the bounded ring, newest first, while history is enabled (R326, R328). -/
def closeEntry (pcBefore : Word) (lineIndex : Nat) (s : State) : State :=
  { s with
    openEntry := []
    history :=
      if s.options.keepHistory then
        ({ pcBefore := pcBefore, mutations := s.openEntry, lineIndex := lineIndex } :: s.history).take
          s.options.historySize
      else s.history }

/-- The table with a line at place `k`; places before it that the table lacks are filled with the same line. -/
def placeLine (lines : List InstructionLine) (k : Nat) (line : InstructionLine) : List InstructionLine :=
  lines.take k ++ List.replicate (k - lines.length) line ++ [line] ++ lines.drop (k + 1)

end Sys2Proof.Machine
end

