-- ==== Sys2Proof/Machine/HostCalls.lean ====
section
/-! DEFINITION. The host's calls between steps: the answer to an interrupt (spec/49_trap15.md R302 to R305), the register
write and the observers (spec/60_exceptions.md R331), and undo (R327). -/

namespace Sys2Proof.Machine

/-! ## The answer -/

/-- `tag(result) = tag(cur_interrupt)` (R301, R302). -/
def tagMatches : InterruptResult → Interrupt → Bool
  | .displayStringWithCRLF, .displayStringWithCRLF _ => true
  | .displayStringWithoutCRLF, .displayStringWithoutCRLF _ => true
  | .readKeyboardString _, .readKeyboardString => true
  | .displayNumber, .displayNumber _ => true
  | .readNumber _, .readNumber => true
  | .readChar _, .readChar => true
  | .displayChar, .displayChar _ => true
  | .getTime _, .getTime => true
  | _, _ => false

/-- `Apply(result)` (R303): registers are read now, not when the trap ran. -/
def applyResult (r : InterruptResult) (s : State) : Res State :=
  match r with
  | .displayStringWithCRLF => .ok s
  | .displayStringWithoutCRLF => .ok s
  | .displayNumber => .ok s
  | .displayChar => .ok s
  | .readKeyboardString bs => do
    let kept := bs.take Config.keyboardLimit
    let t ← memWriteBytes (s.x (.addr 1)) kept s
    regWrite (.data 1) .W (BitVec.ofNat 16 kept.length) t
  | .readNumber n => regWrite (.data 1) .L n s
  | .readChar c => regWrite (.data 1) .B c s
  | .getTime t => regWrite (.data 1) .L t s

/-- What `answerInterrupt` reports: accepted (R302); a wrong tag, as the fault InterruptMismatch that ends nothing
(R305 (a)); a call outside status Interrupt, whose error the source does not name (R305 (b)); a fault that ended the run
(R304). -/
inductive Reply where
  | accepted
  | rejected (f : Fault)
  | notInterrupt
  | faulted (f : Fault)
  deriving DecidableEq, Repr

/-- Mutations appended to the most recent history entry, where there is one (log 15). -/
def appendToLast (ms : List Mutation) : List ExecutionStep → List ExecutionStep
  | [] => []
  | e :: rest => { e with mutations := e.mutations ++ ms } :: rest

/-- An accepted answer, its result applied: slot emptied, status Running, end check (R302). Its mutations go to the entry
of the trap it answers (log 15). -/
def finishAnswer (s t : State) : State :=
  endCheck
    { t with
      curInterrupt := none
      status := .running
      history := appendToLast (t.openEntry.drop s.openEntry.length) t.history
      openEntry := s.openEntry }

/-- `answerInterrupt(result)` (R302 to R305): the state after the call and what it reports. -/
def answerInterrupt (r : InterruptResult) (s : State) : State × Reply :=
  if s.status = .interrupt then
    match s.curInterrupt with
    | none => (s, .notInterrupt)
    | some record =>
      if tagMatches r record then
        match applyResult r s with
        | .ok t => (finishAnswer s t, .accepted)
        | .error (.raise f) => (takeFault f s, .faulted f)
        | .error (.refuse _) => (s, .rejected .interruptMismatch)
      else (s, .rejected .interruptMismatch)
  else (s, .notInterrupt)

/-! ## Register write, undo -/

/-- `setRegisterValue(op, value, size)` (R331): a register write that no history entry records. -/
def setRegisterValue (r : Reg) (v : Word) (sz : Size) (s : State) : Except Fault State :=
  if byteOnAddr r sz then .error .illegalAddressingMode
  else .ok (s.withReg r (mergeReg r sz (s.x r) (v.setWidth sz.bits)))

/-- The inverse of a recorded change (R326, R327). -/
def undoMutation (s : State) : Mutation → State
  | .writeRegister r old _ => s.withReg r old
  | .writeMemory addr old _ => { s with mem := s.mem.writeBytes addr.toNat old }
  | .writeMemoryBytes addr old => { s with mem := s.mem.writeBytes addr.toNat old }
  | .writeFlags old => { s with flags := old }
  | .writePc old => { s with pc := old }

/-- `undo()` (R327): the most recent entry's inverses in reverse order, `pc` restored, the entry removed; none without
history. The status afterwards is not stated, so the engine is marked (log 16). -/
def undo (s : State) : Option State :=
  match s.history with
  | [] => none
  | e :: rest =>
    some { e.mutations.reverse.foldl undoMutation s with pc := e.pcBefore, history := rest, undone := true }

/-- `canUndo()` (R327). -/
def canUndo (s : State) : Bool := !s.history.isEmpty

/-! ## Observers (R331) -/

/-- `getStatus()`. -/
def getStatus (s : State) : Status := s.status

/-- `hasTerminated()`, true in both terminal statuses (R318). -/
def hasTerminated (s : State) : Bool := s.status = .terminated || s.status = .terminatedWithException

/-- `hasReachedBottom()` (R31). -/
def hasReachedBottom (s : State) : Bool := s.reachedBottom

/-- `getCurrentInterrupt()` (R32). -/
def getCurrentInterrupt (s : State) : Option Interrupt := s.curInterrupt

/-- The engine's `Cpu` record (R35): "`{d, a, pc, flags}` and nothing else". -/
structure CpuSnapshot where
  d     : Vector Word 8
  a     : Vector Word 8
  pc    : Word
  flags : Flags
  deriving DecidableEq, Repr

/-- `getCpuSnapshot()`. -/
def getCpuSnapshot (s : State) : CpuSnapshot := { d := s.d, a := s.a, pc := s.pc, flags := s.flags }

/-- The name of a flag (R26). -/
inductive FlagName where
  | x | n | z | v | c
  deriving DecidableEq, Repr

/-- `getFlag(f)`. -/
def getFlag (f : FlagName) (s : State) : Bool :=
  match f with
  | .x => s.flags.x
  | .n => s.flags.n
  | .z => s.flags.z
  | .v => s.flags.v
  | .c => s.flags.c

/-- `getFlagsAsArray()`: `[X,N,Z,V,C]` (R26). -/
def getFlagsAsArray (s : State) : List Bool := flagsArray s.flags

/-- `getFlagsAsBitfield()`: the byte of R26. -/
def getFlagsAsBitfield (s : State) : Byte := ccrByte s.flags

/-- `getPc()`. -/
def getPc (s : State) : Word := s.pc

/-- `getSp()` is `a[7]`. -/
def getSp (s : State) : Word := s.x .sp

/-- `getRegisterValue(op, size)` is `RegRead` (R22). -/
def getRegisterValue (r : Reg) (sz : Size) (s : State) : Res (BitVec sz.bits) := regRead r sz s

/-- `readMemoryBytes(addr, len)` is `MemReadBytes` (R66); out of range is not defined (log 21). -/
def readMemoryBytes (addr : Word) (len : Nat) (s : State) : Option (List Byte) := (memReadBytes addr len s).toOption

/-- `getInstructionAt(addr)` is `IT[addr]`. -/
def getInstructionAt (addr : Word) (s : State) : Option InstructionLine := fetch { s with pc := addr }

/-- `getNextInstruction()` is `IT[pc]`. -/
def getNextInstruction (s : State) : Option InstructionLine := fetch s

/-- `getCurrentLineIndex()` (R90). -/
def getCurrentLineIndex (s : State) : Option Nat := (fetch s).map InstructionLine.lineIndex

/-- `getCallStack()` "reads" the call stack (R329). That the records are listed newest first is the model's choice (log
33). -/
def getCallStack (s : State) : List CallRecord := s.callStack

/-- `getUndoHistory(k)` "reads" the history (R328). That it answers the `k` newest entries, newest first, and every entry
where there are fewer, is the model's choice (log 33). -/
def getUndoHistory (k : Nat) (s : State) : List ExecutionStep := s.history.take k

/-- `getPreviousMutations()`: the mutations of the most recent entry (R326, R328); the empty list without history is the
model's choice (log 33). -/
def getPreviousMutations (s : State) : List Mutation :=
  match s.history with
  | [] => []
  | e :: _ => e.mutations

end Sys2Proof.Machine
end

