-- ==== Sys2Proof/Machine/Engine.lean ====
section
/-! DEFINITION. One step of the engine (spec/40_step_and_operands.md R130, spec/60_exceptions.md R325), and one step of
the engine with its host. -/

namespace Sys2Proof.Machine

/-- Execute an entry (R130): decode it, run the meaning, close the history entry, end check. An entry that denotes no
instruction raises IllegalInstruction (R104 (b)). -/
def runLine (line : InstructionLine) (s : State) : Result :=
  match decode line.entry with
  | .error .noInstruction => .next (closeEntry s.pc line.lineIndex (takeFault .illegalInstruction s))
  | .error .operandShape => .refused .operandShape
  | .ok i =>
    match exec i s with
    | .next t => .next (endCheck (closeEntry s.pc line.lineIndex t))
    | .fault f => .fault f
    | .refused r => .refused r

/-- The engine's `step()` (R130, R131, R325): in a terminal status it executes nothing and changes nothing (log 10); in
status Interrupt it is UnansweredInterrupt. -/
def engineStep (s : State) : Result :=
  match s.status with
  | .terminated => .next s
  | .terminatedWithException => .next s
  | .interrupt => .next (takeFault .unansweredInterrupt s)
  | .running =>
    match fetch s with
    | none => .next (takeFault .illegalInstruction s)
    | some line => runLine line s

/-- What the host's `step()` call returns (R130, R311, R325): the entry and the status; the fault that ended the run; or, in
a terminal status, an error whose name the source does not give (log 10). -/
inductive StepReply where
  | completed (line : InstructionLine) (status : Status)
  | raised (f : Fault)
  | alreadyEnded
  deriving DecidableEq, Repr

/-- What `engineStep` reports beside the state it leaves; none where it refuses. -/
def stepReply (s : State) : Option StepReply :=
  match s.status with
  | .terminated => some .alreadyEnded
  | .terminatedWithException => some .alreadyEnded
  | .interrupt => some (.raised .unansweredInterrupt)
  | .running =>
    match fetch s with
    | none => some (.raised .illegalInstruction)
    | some line =>
      match runLine line s with
      | .next t =>
        match t.status, t.reason with
        | .terminatedWithException, some f => some (.raised f)
        | status, _ => some (.completed line status)
      | .fault f => some (.raised f)
      | .refused _ => none

/-- The next call of the host: while an interrupt is pending and the host has an answer, `answerInterrupt` (log 11);
otherwise the engine's `step()`. After `undo` the status is unknown, and stepping is refused (R327, log 16). -/
def hostStep (s : State) : Result :=
  if s.undone then .refused .stepAfterUndo
  else
    match s.status, s.answers with
    | .interrupt, r :: rest => .next (answerInterrupt r { s with answers := rest }).1
    | _, _ => engineStep s

end Sys2Proof.Machine
end

