-- ==== Sys2Proof/Machine/Step.lean ====
section
/-! DEFINITION. The step of the machine, and the host's placing of one instruction. -/

namespace Sys2Proof.Machine

/-- One step of the machine: `hostStep` (Engine.lean). -/
def step (s : State) : Host.Outcome State Fault Refusal := hostStep s

/-- The state with the entry of a table word (`tableEntry`, log 8) placed where the next step fetches: the entry in the
table at `pc`, `pc` on an entry address, status Running with an empty slot, no `undo` before (log 1). -/
def State.withFetchWord (s : State) (nbits w : Nat) : State :=
  match tableEntry nbits w with
  | none => s
  | some e =>
    { s with
      program :=
        { s.program with
          lines :=
            placeLine s.program.lines (s.pc.toNat / 4) { entry := e, parsedLine := { text := "", lineIndex := 0 } } }
      pc := BitVec.ofNat 32 (s.pc.toNat / 4 * 4)
      status := .running
      reason := none
      reachedBottom := false
      curInterrupt := none
      undone := false }

end Sys2Proof.Machine
end

