-- ==== Sys2Proof/Machine/Run.lean ====
section
/-! DEFINITION. The run variants (spec/60_exceptions.md R330): loops of `step`; and a run together with its host, with the
result it shows (spec/70_reset_and_hazards.md R363). -/

namespace Sys2Proof.Machine

/-! ## The run variants

The status a variant returns is the status of the state it leaves, and a fault it returns is that state's reason (R311). -/

/-- The call of a run variant: in status Interrupt it is UnansweredInterrupt, whatever its limit and whatever answer the
host holds (R325 (a), D27, log 27); after `undo` it is refused (R327, log 16); otherwise its loop runs. -/
def callRun (loop : State → Result) (s : State) : Result :=
  if s.undone then .refused .stepAfterUndo
  else if s.status = .interrupt then .next (takeFault .unansweredInterrupt s)
  else loop s

/-- Step while the status is Running, at most `n` times. -/
def runLoop : Nat → State → Result
  | 0, s => .next s
  | n + 1, s =>
    if s.status = .running then
      match step s with
      | .next t => runLoop n t
      | .fault f => .fault f
      | .refused r => .refused r
    else .next s

/-- `runWithLimit(n)`. -/
def runWithLimit (n : Nat) (s : State) : Result := callRun (runLoop n) s

/-- `run()` "repeatedly steps until the status leaves `Running`": it ends in `t`, or it does not end (R363 (d), log 19). -/
def RunsTo (s t : State) : Prop := ∃ n, runWithLimit n s = .next t ∧ t.status ≠ .running

/-- The loop of `runWithBreakpoints`: it halts before an instruction whose address is in the set. -/
def breakLoop (breakpoints : List Word) : Nat → State → Result
  | 0, s => .next s
  | n + 1, s =>
    if s.status = .running && !breakpoints.contains s.pc then
      match step s with
      | .next t => breakLoop breakpoints n t
      | .fault f => .fault f
      | .refused r => .refused r
    else .next s

/-- `runWithBreakpoints(addrs, limit)`; whether a breakpoint on the first instruction halts at once is free (log 18). -/
def runWithBreakpoints (breakpoints : List Word) (limit : Nat) (s : State) : Result :=
  callRun (fun s =>
    if Config.breakpointOnFirst then breakLoop breakpoints limit s
    else
      match limit with
      | 0 => .next s
      | n + 1 =>
        if s.status = .running then
          match step s with
          | .next t => breakLoop breakpoints n t
          | .fault f => .fault f
          | .refused r => .refused r
        else .next s) s

/-- `runWithBreakpoints(addrs)`, the limit left out: it ends in `t`, out of status Running or at a breakpoint, or it does
not end (log 19). -/
def RunsToBreakpoint (breakpoints : List Word) (s t : State) : Prop :=
  ∃ n, runWithBreakpoints breakpoints (n + 1) s = .next t ∧ (t.status ≠ .running ∨ t.pc ∈ breakpoints)

/-! ## A run with its host -/

/-- An interrupt record the host was shown, with the answer it gave to it and what that call reported; no answer where the
host stepped without one (R363, R366 (c)). -/
structure Exchange where
  record : Interrupt
  answer : Option (InterruptResult × Reply)
  deriving DecidableEq, Repr

/-- The exchange of the host's next call: one in status Interrupt, none in another status. -/
def exchangeOf (s : State) : Option Exchange :=
  match s.status, s.curInterrupt, s.answers with
  | .interrupt, some record, [] => some { record := record, answer := none }
  | .interrupt, some record, r :: rest =>
    some { record := record, answer := some (r, (answerInterrupt r { s with answers := rest }).2) }
  | _, _, _ => none

/-- "The host-visible result of a finished run" (R363): the final state, with its status, reason and `reached_bottom`, and
the interrupt records the host was shown with the answers it gave, oldest first. -/
structure RunResult where
  state     : State
  exchanges : List Exchange
  deriving DecidableEq, Repr

/-- The engine and its host for at most `n` calls, until a terminal status: the host steps, and answers each interrupt with
the next of its answers (R366 (c), log 11). A record still pending when the calls run out is in the state's slot. -/
def hostRun : Nat → State → Host.Outcome RunResult Fault Refusal
  | 0, s => .next { state := s, exchanges := [] }
  | n + 1, s =>
    if hasTerminated s then .next { state := s, exchanges := [] }
    else
      match step s with
      | .next t =>
        match hostRun n t with
        | .next r => .next { r with exchanges := (exchangeOf s).toList ++ r.exchanges }
        | .fault f => .fault f
        | .refused r => .refused r
      | .fault f => .fault f
      | .refused r => .refused r

end Sys2Proof.Machine
end

