-- ==== Sys2Proof/Machine/Boot.lean ====
section
/-! DEFINITION. Construction of an engine from a compiled program, which is its reset (spec/70_reset_and_hazards.md R360,
R361). -/

namespace Sys2Proof.Machine

/-- A `CompiledProgram`: the instruction table, the label values, and the sparse initial memory image (R34, R70). -/
structure CompiledProgram where
  program : Program
  image   : List Host.Cell
  deriving DecidableEq, Repr

/-- Cells written one after another. -/
def loadCells (cells : List Host.Cell) (m : Memory) : Memory :=
  cells.foldl (fun m cell => m.writeByte cell.1 cell.2) m

/-- The construction inputs of R361: `2 <= MEM_SIZE <= 2^32`, image and fill inside memory, and `INSTR_END <= 2^32` (R25;
what a table that ends exactly there does is log 32). -/
def bootAdmits (p : CompiledProgram) (fill : List Host.Cell) (o : Options) : Bool :=
  2 ≤ o.memSize && o.memSize ≤ Config.maxMemSize
    && p.image.all (fun cell => cell.1 < o.memSize) && fill.all (fun cell => cell.1 < o.memSize)
    && instrEnd p.program ≤ 2 ^ 32

/-- The reset state of a program (R360, R37): `fill` is `init_fill`, any bytes, given as the cells that are not zero; the
image overrides it (R70). Other constructions are refused (log 28). -/
def boot (p : CompiledProgram) (fill : List Host.Cell) (o : Options) : Option State :=
  if bootAdmits p fill o then
    some (endCheck
      { State.reset with
        a := (Vector.replicate 8 0).set 7 (spInit o.memSize)
        status := .running
        reachedBottom := false
        mem := loadCells p.image (loadCells fill [])
        program := p.program
        options := o })
  else none

end Sys2Proof.Machine
end

