-- ==== Sys2Proof/Safety.lean ====
section
/-! DEFINITION. What claims about runs are stated in: the invariant every step keeps, a checked program, and what an
instruction may leave changed. -/

namespace Sys2Proof

/-- An entry the semantic checker accepts: it decodes to an instruction in an admitted form (R103, R361 (a)). -/
def Entry.checked (e : Entry) : Bool :=
  match decode e with
  | .ok i => i.wellFormed
  | .error _ => false

/-- The registers an addressing mode changes: the base of a predecrement or postincrement (R138, R139). -/
def Operand.steps : Operand → List Reg
  | .indirect n _ _ .pre => [.addr n]
  | .indirect n _ _ .post => [.addr n]
  | .indirect _ _ _ .plain => []
  | .immediate _ => []
  | .register _ => []
  | .absolute _ => []
  | .address _ => []

end Sys2Proof

namespace Sys2Proof.Machine

/-- The number of bytes an interrupt record carries (R301). -/
def Interrupt.byteCount : Interrupt → Nat
  | .displayStringWithCRLF bytes => bytes.length
  | .displayStringWithoutCRLF bytes => bytes.length
  | .readKeyboardString => 0
  | .displayNumber _ => 0
  | .readNumber => 0
  | .readChar => 0
  | .displayChar _ => 0
  | .getTime => 0

/-- The invariant of the engine between steps. -/
structure Inv (s : State) : Prop where
  /-- Memory is in its canonical form (log 5). -/
  memCanonical : s.mem.wf = true
  /-- Every listed byte lies in data memory (R33). -/
  memInside : ∀ cell ∈ s.mem, cell.1 < s.options.memSize
  /-- `2 <= MEM_SIZE <= 2^32` (R361). -/
  sizeLegal : 2 ≤ s.options.memSize ∧ s.options.memSize ≤ 2 ^ 32
  /-- `INSTR_END <= 2^32` (R25). -/
  tableFits : instrEnd s.program ≤ 2 ^ 32
  /-- The slot "is non-empty exactly when the status is `Interrupt`" (R32). -/
  slotFilled : s.status = .interrupt ↔ s.curInterrupt.isSome = true
  /-- A string record holds 0 to 65535 bytes (R301). -/
  slotShort : ∀ r, s.curInterrupt = some r → r.byteCount ≤ 65535
  /-- A terminal reason is kept exactly in status TerminatedWithException (R31). -/
  reasonKept : s.status = .terminatedWithException ↔ s.reason.isSome = true
  /-- `reached_bottom` only in status Terminated with `pc` at the end (R31, R133). -/
  bottomAtEnd : s.reachedBottom = true → s.status = .terminated ∧ s.pc.toNat = instrEnd s.program
  /-- A running engine is not at the end of the program (R133). -/
  notAtEnd : s.status = .running → s.pc.toNat ≠ instrEnd s.program
  /-- No history entry is open between steps (R130). -/
  entryClosed : s.openEntry = []
  /-- The history is bounded (R328). -/
  ringBounded : s.options.keepHistory = true → s.history.length ≤ s.options.historySize
  /-- "When `keep_history` is false, no entries are recorded" (R328). -/
  ringOff : s.options.keepHistory = false → s.history = []

/-- A program every entry of which the checker accepts (R361 (a)). -/
def Program.checked (p : Program) : Bool := p.lines.all (fun line => line.entry.checked)

/-! ## What an instruction may change -/

/-- An access passes its checks: in bounds, and aligned where the policy asks for it (R61, R65). -/
def State.accessible (s : State) (addr : Word) (sz : Size) : Prop :=
  s.inBounds addr sz.bytes = true ∧ s.misalignedAt addr sz = false

/-- The fault an access raises: bounds before alignment (R62, R63, R314 (c)); none when it passes its checks. -/
def State.accessFault (s : State) (addr : Word) (sz : Size) : Option Fault :=
  if !s.inBounds addr sz.bytes then some .addressOutOfBounds
  else if s.misalignedAt addr sz then some .misalignedAccess
  else none

/-- The register a location names. -/
def Loc.regs : Loc → List Reg
  | .reg r => [r]
  | .imm _ => []
  | .mem _ => []

/-- A byte address lies in an access at `addr`, `len` bytes long. -/
def within (addr : Word) (len : Nat) (b : Nat) : Prop := addr.toNat ≤ b ∧ b < addr.toNat + len

/-- The bytes a location covers at a size. -/
def Loc.covers (l : Loc) (sz : Size) (b : Nat) : Prop :=
  match l with
  | .mem addr => within addr sz.bytes b
  | .imm _ => False
  | .reg _ => False

/-- No byte. -/
def noByte (_ : Nat) : Prop := False

/-- A location can be written at a size: a register that may be accessed so, or accessible bytes (R22, R61, R65, R147). -/
def Loc.writable (l : Loc) (sz : Size) (s : State) : Prop :=
  match l with
  | .imm _ => False
  | .reg r => byteOnAddr r sz = false
  | .mem addr => s.accessible addr sz

/-- `t` holds `v` at a location: in a register over its content in `s` as R23 says, in memory byte for byte (R63). -/
def Loc.holds (l : Loc) (sz : Size) (v : BitVec sz.bits) (s t : State) : Prop :=
  match l with
  | .imm _ => False
  | .reg r => t.x r = mergeReg r sz (s.x r) v
  | .mem addr => t.mem.readBytes addr.toNat sz.bytes = bytesOf sz v

/-- Resolving and reading an operand in `s` gives the location `l`, the value `v`, and leaves the state `u` (R134, R146). -/
def Reads (op : Operand) (sz : Size) (s : State) (l : Loc) (u : State) (v : BitVec sz.bits) : Prop :=
  resolve op sz s = .ok (l, u) ∧ readLoc l sz u = .ok v

/-- The bit a bit instruction leaves where it found `old` (R241 to R244). -/
def bitAfter (op : BitOp) (old : Bool) : Bool :=
  match op with
  | .tst => old
  | .chg => !old
  | .clr => false
  | .set => true

/-- `t` differs from `s` at most in the registers `regs`, the bytes `bytes`, the flags, `pc`, the open history entry and
the call stack: every other register, every other byte and all else are as before. -/
structure OnlyChanges (s t : State) (regs : List Reg) (bytes : Nat → Prop) : Prop where
  regs          : ∀ r, r ∉ regs → t.x r = s.x r
  bytes         : ∀ b, ¬ bytes b → t.mem.readByte b = s.mem.readByte b
  status        : t.status = s.status
  reason        : t.reason = s.reason
  reachedBottom : t.reachedBottom = s.reachedBottom
  curInterrupt  : t.curInterrupt = s.curInterrupt
  history       : t.history = s.history
  undone        : t.undone = s.undone
  answers       : t.answers = s.answers
  program       : t.program = s.program
  options       : t.options = s.options

/-- What an instruction without a control transfer leaves beside its results: `pc` past the entry (R132), the call stack
as before. -/
def FallsThrough (s t : State) : Prop := t.pc = s.pc + 4 ∧ t.callStack = s.callStack

/-- An instruction that started in `s` and resolved its operands into `u` ended in `t` with `v` written at the location
`l`, and nothing else changed but the address registers `steps` its operands step, the flags and `pc`. -/
structure Wrote (s u t : State) (steps : List Reg) (l : Loc) (sz : Size) (v : BitVec sz.bits) : Prop where
  holds   : l.holds sz v u t
  stepped : ∀ r, r ∉ l.regs → t.x r = u.x r
  rest    : OnlyChanges s t (steps ++ l.regs) (l.covers sz)
  falls   : FallsThrough s t

/-- An instruction that started in `s` and resolved its operands into `u` ended in `t` with one register written. -/
structure WroteReg (s u t : State) (steps : List Reg) (r : Reg) (v : Word) : Prop where
  value   : t.x r = v
  stepped : ∀ r', r' ≠ r → t.x r' = u.x r'
  rest    : OnlyChanges s t (steps ++ [r]) noByte
  falls   : FallsThrough s t

/-- No flag, no register, no byte and nothing else changed, but `pc` and the open history entry. -/
structure OnlyJumps (s t : State) : Prop where
  rest      : OnlyChanges s t [] noByte
  flags     : t.flags = s.flags
  callStack : t.callStack = s.callStack

/-- An instruction that started in `s` and resolved its operands into `u` ended in `t` with no register, no byte changed
but the address registers `steps` its operands step. -/
structure WroteNothing (s u t : State) (steps : List Reg) : Prop where
  stepped : ∀ r, t.x r = u.x r
  rest    : OnlyChanges s t steps noByte
  falls   : FallsThrough s t

end Sys2Proof.Machine
end

