-- ==== Sys2Proof/Certificates/Slice0/Obligations.lean ====
section
/-! DEFINITION. The statements for the provers. Each docstring names the rules of spec/ its statement formalises, and the
log entry or the mark of the spec where a clause rests on a choice. -/

open Sys2Proof Sys2Proof.Machine

/-! ## Entries and forms -/

/-- R92 to R95: words written out bit by bit decode to the instruction they stand for, and words that denote no instruction
(bits 5:4, a size, a condition, a tag) are rejected. The numbering is the spec's own (D5). -/
def Obligations.DescriptorWordsDecode : Prop :=
  decode { descriptor := 0b0000000101000000#16, operands := [.immediate (-1), .register (.data 0)], reglist := none }
      = .ok (.moveW (.immediate (-1)) (.register (.data 0))) ∧
  decode { descriptor := 0b0000001010000000#16, operands := [.immediate 5, .register (.data 3)], reglist := none }
      = .ok (.moveqL (.immediate 5) (.register (.data 3))) ∧
  decode { descriptor := 0b0000110101000000#16, operands := [.immediate 2, .register (.data 0)], reglist := none }
      = .ok (.divsW (.immediate 2) (.register (.data 0))) ∧
  decode { descriptor := 0b0001001100000000#16, operands := [.immediate 1, .register (.data 0)], reglist := none }
      = .ok (.aslB (.counted (.immediate 1) (.register (.data 0)))) ∧
  decode { descriptor := 0b0001011001000000#16, operands := [.absolute 0x2000], reglist := none }
      = .ok (.lsrW (.memory (.absolute 0x2000))) ∧
  decode { descriptor := 0b0001110010000000#16, operands := [.immediate 2, .register (.data 0)], reglist := none }
      = .ok (.btstL (.immediate 2) (.register (.data 0))) ∧
  decode { descriptor := 0b0010000011000111#16, operands := [.address 0x20], reglist := none } = .ok (.beq (.address 0x20)) ∧
  decode { descriptor := 0b0010010101000001#16, operands := [.register (.data 0), .address 8], reglist := none }
      = .ok (.dbfW (.register (.data 0)) (.address 8)) ∧
  decode { descriptor := 0b0010101110000000#16, operands := [.indirect 7 0 none .pre], reglist := some 0x0103#16 }
      = .ok (.movemLStore 0x0103#16 (.indirect 7 0 none .pre)) ∧
  decode { descriptor := 0b0010110111000000#16, operands := [.immediate 15], reglist := none }
      = .ok (.trap (.immediate 15)) ∧
  decode { descriptor := 0b0000000101010000#16, operands := [], reglist := none } = .error .noInstruction ∧
  decode { descriptor := 0b0000000111000000#16, operands := [], reglist := none } = .error .noInstruction ∧
  decode { descriptor := 0b0000000101000001#16, operands := [], reglist := none } = .error .noInstruction ∧
  decode { descriptor := 0b0000000001000000#16, operands := [], reglist := none } = .error .noInstruction ∧
  decode { descriptor := 0b0010111011000000#16, operands := [], reglist := none } = .error .noInstruction

/-- R90, R92: decoding the entry of an instruction gives the instruction, with every operand at every value. -/
def Obligations.DecodeEncode : Prop :=
  ∀ i : Instr, decode (encode i) = .ok i

/-- R92: an entry that decodes is the entry of the instruction it decodes to, so every bit of the descriptor counts and no
two entries denote one instruction. -/
def Obligations.EncodeDecode : Prop :=
  ∀ (e : Entry) (i : Instr), decode e = .ok i → encode i = e

/-- R103 (forms of the M68000 the spec admits, D8): every admitted form is executed: `exec` answers a next state, and it is
either in the status the machine was in, or paused, or ended. -/
def Obligations.AdmittedFormsExecute : Prop :=
  ∀ (i : Instr) (s : State), i.wellFormed = true →
    ∃ t, exec i s = .next t ∧
      (t.status = s.status ∨ t.status = .interrupt ∨ t.status = .terminated ∨ t.status = .terminatedWithException)

/-- R104, R170, R184, R187, R188, R213: a byte access to an address register raises IllegalAddressingMode (a), as source, as
destination once the source has been read, and as the one operand of TST, NEG, NOT, Scc, a shift or a bit instruction; a TRAP
with another vector raises IllegalInstruction (b); at every size MOVE, ADDQ and SUBQ to an address register (the spec's decision
D15), CMP with a destination other than a data register and EOR with a source other than one are refused, and so is every other
form outside R103 (c). How far clause (a) reaches, and that the constant of ADDQ and SUBQ is no access, is log 6; that a form
is refused before any work is log 7. -/
def Obligations.FormsOutsideTheTable : Prop :=
  (∀ (n : Fin 8) (dst : Operand) (s : State),
    (dst.isDataAlt = true → exec (.moveB (.register (.addr n)) dst) s = .next (takeFault .illegalAddressingMode s)) ∧
    ((dst.isDataAlt || dst.isAn) = true → ∀ i ∈ [Instr.addB, Instr.subB, Instr.andB, Instr.orB],
      exec (i (.register (.addr n)) dst) s = .next (takeFault .illegalAddressingMode s)) ∧
    (dst.isDn = true → exec (.cmpB (.register (.addr n)) dst) s = .next (takeFault .illegalAddressingMode s))) ∧
  (∀ (n : Fin 8) (src : Operand) (s u : State) (l : Loc) (a : BitVec 8), src.isData = true → Reads src .B s l u a →
    (∀ i ∈ [Instr.addB, Instr.subB, Instr.andB, Instr.orB],
      exec (i src (.register (.addr n))) s = .next (takeFault .illegalAddressingMode s)) ∧
    (src.isDn = true → exec (.eorB src (.register (.addr n))) s = .next (takeFault .illegalAddressingMode s))) ∧
  (∀ (n : Fin 8) (s : State),
    (∀ i ∈ [Instr.tstB, Instr.negB, Instr.notB],
      exec (i (.register (.addr n))) s = .next (takeFault .illegalAddressingMode s)) ∧
    (∀ k : Cond, exec (Instr.setOn k (.register (.addr n))) s = .next (takeFault .illegalAddressingMode s)) ∧
    (∀ (op : ShiftOp) (count : Operand), (count.isImmIn 1 8 || count.isDn) = true →
      exec (Instr.shifted op .B (.counted count (.register (.addr n)))) s
        = .next (takeFault .illegalAddressingMode s)) ∧
    (∀ (op : BitOp) (bitnum : Operand), (bitnum.isImm || bitnum.isDn) = true →
      exec (Instr.bitOnByte op bitnum (.register (.addr n))) s = .next (takeFault .illegalAddressingMode s))) ∧
  (∀ (v : Word) (s : State), v ≠ 15 → exec (.trap (.immediate v)) s = .next (takeFault .illegalInstruction s)) ∧
  (∀ (sz : Size) (src : Operand) (n : Fin 8) (s : State), ∀ i ∈ [Instr.move sz, Instr.addq sz, Instr.subq sz],
    exec (i src (.register (.addr n))) s = .refused .formNotAdmitted) ∧
  (∀ (n : Fin 8) (dst : Operand) (s : State), ∀ i ∈ [Instr.addqB, Instr.subqB],
    exec (i (.register (.addr n)) dst) s = .refused .formNotAdmitted) ∧
  (∀ (sz : Size) (src dst : Operand) (s : State), dst.isDn = false →
    exec (Instr.cmp sz src dst) s = .refused .formNotAdmitted) ∧
  (∀ (sz : Size) (src dst : Operand) (s : State), src.isDn = false →
    exec (Instr.eor sz src dst) s = .refused .formNotAdmitted) ∧
  (∀ (i : Instr) (s : State), i.wellFormed = false → i.shape.byteOnAddr = false → i.shape.otherVector = false →
    exec i s = .refused .formNotAdmitted)

/-! ## Reset and construction -/

/-- The state `core` names as reset: the values of R37, with no program loaded (log 1), the default options (log 2), and
zero where the spec only decides (D3, log 3) or leaves open (memory, log 5): the model's choice in those clauses. -/
def Obligations.ResetState : Prop :=
  (∀ n, State.reset.x (.data n) = 0) ∧ (∀ n, n ≠ 7 → State.reset.x (.addr n) = 0) ∧
    State.reset.x .sp = 0x01000000 ∧ State.reset.pc = 0 ∧
    State.reset.flags = { x := false, n := false, z := false, v := false, c := false } ∧
    State.reset.status = .terminated ∧ State.reset.reason = none ∧ State.reset.reachedBottom = true ∧
    State.reset.curInterrupt = none ∧ State.reset.callStack = [] ∧ State.reset.history = [] ∧ State.reset.mem = []

/-- R360, R37, R70: construction from a program, a memory fill and options that R361 admits gives a state with the reset
values, and with it the invariant. The zero registers are the spec's decision D3; the fill is any bytes; that the stack
pointer is zero for `MEM_SIZE = 2^32` is log 4. -/
def Obligations.BootState : Prop :=
  ∀ (p : CompiledProgram) (fill : List Host.Cell) (o : Options), bootAdmits p fill o = true →
    ∃ s, boot p fill o = some s ∧
      (∀ n, s.x (.data n) = 0) ∧ (∀ n, n ≠ 7 → s.x (.addr n) = 0) ∧
      (s.x .sp).toNat = (o.memSize - o.memSize % 2) % 2 ^ 32 ∧ s.pc = 0 ∧
      s.flags = { x := false, n := false, z := false, v := false, c := false } ∧
      s.status = (if p.program.lines = [] then .terminated else .running) ∧
      s.reachedBottom = p.program.lines.isEmpty ∧ s.reason = none ∧ s.curInterrupt = none ∧
      s.history = [] ∧ s.callStack = [] ∧ s.program = p.program ∧ s.options = o ∧
      (∀ b, s.mem.readByte b = (p.image.reverse.lookup b).getD ((fill.reverse.lookup b).getD 0)) ∧ Inv s

/-- The invariant holds of the reset state. -/
def Obligations.ResetInv : Prop := Inv State.reset

/-! ## The step -/

/-- R24, R25, R31 to R34, R60, R133, R301, R328, R361: every step keeps the invariant of the engine, from every state that
has it. -/
def Obligations.StepKeepsInv : Prop :=
  ∀ s t : State, Inv s → step s = .next t → Inv t

/-- R130, R133: when the engine runs and the entry at `pc` decodes to `i`, the step is `exec i` at that state, then the
history entry is closed (with what `exec` recorded, into a ring of `history_size` where history is on), then the end check:
`pc` at the end of the table ends the run. An instruction `exec` refuses refuses the step. That an entry that faults leaves
a history entry too is the model's choice (log 14). -/
def Obligations.StepRunsDecodedInstruction : Prop :=
  ∀ (s : State) (line : InstructionLine) (i : Instr), s.undone = false → s.status = .running → fetch s = some line →
    decode line.entry = .ok i →
    (∀ u, exec i s = .next u → ∃ t, step s = .next t ∧
      (∀ r, t.x r = u.x r) ∧ t.mem = u.mem ∧ t.flags = u.flags ∧ t.pc = u.pc ∧ t.callStack = u.callStack ∧
      t.reason = u.reason ∧ t.curInterrupt = u.curInterrupt ∧ t.program = u.program ∧ t.options = u.options ∧
      t.undone = u.undone ∧ t.answers = u.answers ∧ t.openEntry = [] ∧
      t.history = (if u.options.keepHistory then
          ({ pcBefore := s.pc, mutations := u.openEntry, lineIndex := line.lineIndex } :: u.history).take
            u.options.historySize
        else u.history) ∧
      t.status = (if u.status = .running ∧ u.pc.toNat = instrEnd u.program then .terminated else u.status) ∧
      t.reachedBottom = (if u.status = .running ∧ u.pc.toNat = instrEnd u.program then true else u.reachedBottom)) ∧
    (∀ r, exec i s = .refused r → step s = .refused r)

/-- R131, R104 (b), R314 (a): a fetch at a `pc` that is no entry address raises IllegalInstruction; so does an entry whose
descriptor denotes no instruction; at an entry address the entry is found. That a fetch elsewhere faults is the spec's
decision D7, that an entry that denotes no instruction does is D23. -/
def Obligations.FetchFaults : Prop :=
  (∀ s : State, s.undone = false → s.status = .running →
    (s.pc.toNat % 4 ≠ 0 ∨ instrEnd s.program ≤ s.pc.toNat) → step s = .next (takeFault .illegalInstruction s)) ∧
  (∀ (s : State) (k : Nat) (h : k < s.program.lines.length), s.pc.toNat = 4 * k →
    fetch s = some s.program.lines[k]) ∧
  (∀ (s : State) (line : InstructionLine), s.undone = false → s.status = .running → fetch s = some line →
    opcode line.entry.descriptor = none →
    ∃ t, step s = .next t ∧ t.status = .terminatedWithException ∧ t.reason = some .illegalInstruction ∧
      (∀ r, t.x r = s.x r) ∧ t.pc = s.pc ∧ t.flags = s.flags ∧ t.mem = s.mem)

/-- R318, R325: in a terminal status a step executes nothing, changes nothing and reports an error (its name is not given:
log 10); in status Interrupt with no answer ready it ends the run with UnansweredInterrupt, and reports it (the spec's
decision D27, log 27), registers, flags, `pc` and memory unchanged; with an answer ready the model's step gives it to the
engine (log 11). -/
def Obligations.StepOutsideRunning : Prop :=
  (∀ s : State, s.undone = false → (s.status = .terminated ∨ s.status = .terminatedWithException) →
    step s = .next s ∧ stepReply s = some .alreadyEnded) ∧
  (∀ s : State, s.undone = false → s.status = .interrupt → s.answers = [] →
    stepReply s = some (.raised .unansweredInterrupt) ∧
    step s = .next { s with status := .terminatedWithException, reason := some .unansweredInterrupt,
                            curInterrupt := none }) ∧
  (∀ (s : State) (r : InterruptResult) (rest : List InterruptResult), s.undone = false → s.status = .interrupt →
    s.answers = r :: rest → step s = .next (answerInterrupt r { s with answers := rest }).1)

/-- R9, R312, R311: a step from status Running that ends in TerminatedWithException has rolled back completely: every
register, the flags, `pc`, every byte, the call stack are as before; the slot is empty, the fault is kept, and the step call
reports it. -/
def Obligations.FaultRollsBack : Prop :=
  ∀ s t : State, s.status = .running → step s = .next t → t.status = .terminatedWithException →
    (∀ r, t.x r = s.x r) ∧ t.pc = s.pc ∧ t.flags = s.flags ∧ t.mem = s.mem ∧ t.callStack = s.callStack ∧
      t.program = s.program ∧ t.options = s.options ∧ t.curInterrupt = none ∧
      ∃ f, t.reason = some f ∧ stepReply s = some (.raised f)

/-- R30, the complete transition relation: each change of status a step makes has the cause its row names, and a terminal
status is never left. That a step out of status Interrupt is the host's next answer, or without one the forbidden call (the
spec's decision D27), is the model's: log 11, 27. -/
def Obligations.StatusTransitions : Prop :=
  ∀ s t : State, step s = .next t →
    (s.status = .running → t.status = .interrupt →
      ∃ line v, fetch s = some line ∧ decode line.entry = .ok (.trap v) ∧
        (s.x (.data 0)).toNat ∈ [0, 1, 2, 3, 4, 5, 6, 8]) ∧
    (s.status = .running → t.status = .terminated →
      (t.pc.toNat = instrEnd t.program ∧ t.reachedBottom = true) ∨
        ∃ line v, fetch s = some line ∧ decode line.entry = .ok (.trap v) ∧ (s.x (.data 0)).toNat = 9) ∧
    (s.status = .running → t.status = .terminatedWithException → ∃ f, t.reason = some f) ∧
    (s.status = .interrupt → t.status = .running ∨ t.status = .terminated →
      ∃ r rest record, s.answers = r :: rest ∧ s.curInterrupt = some record ∧ tagMatches r record = true ∧
        (t.status = .terminated → t.pc.toNat = instrEnd t.program)) ∧
    (s.status = .interrupt → t.status = .terminatedWithException →
      t.reason = some .unansweredInterrupt ∨ t.reason = some .addressOutOfBounds) ∧
    (s.status = .terminated → t.status = .terminated) ∧
    (s.status = .terminatedWithException → t.status = .terminatedWithException)

/-- R34, R75: no step changes the instruction table, the labels or the options, whatever it stores. -/
def Obligations.ProgramConstant : Prop :=
  ∀ s t : State, step s = .next t → t.program = s.program ∧ t.options = s.options

/-- R361 (a), R130: a program the checker accepted is never refused: any number of steps of it answers a state, from any
state of the engine that no `undo` has touched (log 16). -/
def Obligations.CheckedProgramRuns : Prop :=
  ∀ (n : Nat) (s : State), s.program.checked = true → s.undone = false →
    ∃ t, runWithLimit n s = .next t ∧ t.program = s.program ∧ (t.status = .running → s.status = .running)

/-- R28: the rows of the flag matrix that leave flags alone, over every instruction: the address, branch, call, Scc, frame,
MOVEM and TRAP rows change no flag (the spec's decision D41), the bit instructions change `Z` only, and outside ADD, ADDQ,
SUB, SUBQ, NEG and the shifts no instruction changes `X`; ADD, ADDQ, SUB and SUBQ set `X` to `C`. -/
def Obligations.FlagMatrix : Prop :=
  ∀ (i : Instr) (s t : State), exec i s = .next t →
    (match i.shape with
      | .toAddr _ _ _ | .branch _ | .jump _ | .bare | .decBranch _ _ | .setByte _ | .loadAddr _ _ | .pushAddr _
      | .link _ _ | .unlink _ | .storeRegs _ _ _ | .loadRegs _ _ _ | .trap _ => t.flags = s.flags
      | .bit _ _ _ => t.flags = { s.flags with z := t.flags.z }
      | .move _ _ _ | .moveq _ _ | .compare _ _ _ | .andOr _ _ _ | .eor _ _ _ | .mulDiv _ _ | .dataReg _ =>
        t.flags.x = s.flags.x
      | .unary sz dst => i ≠ Instr.neg sz dst → t.flags.x = s.flags.x
      | .shift sz args => (∃ op ∈ [ShiftOp.rol, ShiftOp.ror], i = Instr.shifted op sz args) → t.flags.x = s.flags.x
      | .addSub _ _ _ | .quick _ _ _ => t.status ≠ .terminatedWithException → t.flags.x = t.flags.c)

/-! ## History and undo -/

/-- R326, R328: an executed entry leaves exactly one history entry, newest first, with its `pc` and line, in a ring bounded
by `history_size`; with history off, none. That an entry that faults leaves one too is the model's choice (log 14). -/
def Obligations.HistoryPolicy : Prop :=
  ∀ (s t : State) (line : InstructionLine), s.status = .running → fetch s = some line → step s = .next t →
    (s.options.keepHistory = true →
      ∃ ms, t.history = ({ pcBefore := s.pc, mutations := ms, lineIndex := line.lineIndex } :: s.history).take
        s.options.historySize) ∧
    (s.options.keepHistory = false → t.history = s.history)

/-- R327, R326: after a step that executed an entry with history on, `undo` succeeds and registers, memory, flags and `pc`
are bit-identical to the state before the step; the entry is gone. The recorded mutations are a list whose inverses alone,
applied in reverse order, give that state back. That a faulting step leaves an entry is log 14; the old value of a register
write is log 13. -/
def Obligations.UndoRestores : Prop :=
  ∀ (s t : State) (line : InstructionLine), Inv s → s.status = .running → fetch s = some line → step s = .next t →
    s.options.keepHistory = true → 0 < s.options.historySize →
    canUndo t = true ∧
      ∃ u, undo t = some u ∧ (∀ r, u.x r = s.x r) ∧ u.mem = s.mem ∧ u.flags = s.flags ∧ u.pc = s.pc ∧
        u.history = s.history.take (s.options.historySize - 1) ∧
      ∃ v, v = (getPreviousMutations t).reverse.foldl undoMutation t ∧ (∀ r, v.x r = s.x r) ∧ v.mem = s.mem ∧
        v.flags = s.flags ∧ v.pc = s.pc

/-! ## Memory, registers, operands -/

/-- R62, R63 (with R61, R65): an access in bounds and, where the policy asks, aligned succeeds; a read changes nothing and
gives the bytes most significant first; a write stores the bytes, changes no other byte and nothing else, and records the
old bytes; an access out of bounds raises AddressOutOfBounds whether or not it is also misaligned, and a misaligned one
raises MisalignedAccess. The policy is a parameter (D9); the exact record of a write is log 13, the canonical form of memory
log 5. -/
def Obligations.MemoryAccess : Prop :=
  ∀ (addr : Word) (sz : Size) (s : State),
    (addr.toNat + sz.bytes ≤ s.options.memSize →
      ¬ (s.options.misaligned = .fault ∧ sz ≠ .B ∧ addr.toNat % 2 = 1) →
      memRead addr sz s = .ok (valueOf sz (s.mem.readBytes addr.toNat sz.bytes)) ∧
      ∀ v, ∃ t, memWrite addr sz v s = .ok t ∧ t.mem.readBytes addr.toNat sz.bytes = bytesOf sz v ∧
        memRead addr sz t = .ok v ∧
        (∀ b, ¬ within addr sz.bytes b → t.mem.readByte b = s.mem.readByte b) ∧
        (s.mem.wf = true → t.mem.wf = true) ∧
        { t with mem := s.mem, openEntry := s.openEntry } = s ∧
        t.openEntry = s.openEntry ++ [.writeMemory addr (s.mem.readBytes addr.toNat sz.bytes) sz]) ∧
    (s.options.memSize < addr.toNat + sz.bytes →
      memRead addr sz s = .error (.raise .addressOutOfBounds) ∧
      ∀ v, memWrite addr sz v s = .error (.raise .addressOutOfBounds)) ∧
    (addr.toNat + sz.bytes ≤ s.options.memSize → s.options.misaligned = .fault → sz ≠ .B → addr.toNat % 2 = 1 →
      memRead addr sz s = .error (.raise .misalignedAccess) ∧
      ∀ v, memWrite addr sz v s = .error (.raise .misalignedAccess))

/-- R64: memory is big-endian: after a long is written at `a`, the bytes at `a` to `a + 3` are the value from its most
significant byte down, and a byte or word read sees its part of it. -/
def Obligations.BigEndian : Prop :=
  ∀ (a v : Word) (s t : State), s.options.memSize ≤ 2 ^ 32 → memWrite a .L v s = .ok t →
    t.mem.readBytes a.toNat 4 = [v.extractLsb' 24 8, v.extractLsb' 16 8, v.extractLsb' 8 8, v.extractLsb' 0 8] ∧
      memRead a .B t = .ok (v.extractLsb' 24 8) ∧ memRead a .W t = .ok (v.extractLsb' 16 16) ∧
      memRead (a + 2) .W t = .ok (v.extractLsb' 0 16) ∧ memRead (a + 3) .B t = .ok (v.extractLsb' 0 8)

/-- R22, R23: a size-qualified read gives the low bits, a write keeps the upper bits of a data register and sign-extends
into the whole of an address register, no other register changes, the write is recorded (with the whole old register: log
13); a byte access to an address register raises IllegalAddressingMode. -/
def Obligations.RegisterAccess : Prop :=
  (∀ (r : Reg) (sz : Size) (s : State), byteOnAddr r sz = false →
    regRead r sz s = .ok ((s.x r).setWidth sz.bits) ∧
    ∀ v, ∃ t, regWrite r sz v s = .ok t ∧ (∀ r', r' ≠ r → t.x r' = s.x r') ∧
      OnlyChanges s t [r] noByte ∧ t.flags = s.flags ∧ t.pc = s.pc ∧ t.callStack = s.callStack ∧
      t.openEntry = s.openEntry ++ [.writeRegister r (s.x r) sz]) ∧
  (∀ (n : Fin 8) (v : BitVec 8) (s t : State), regWrite (.data n) .B v s = .ok t →
    t.x (.data n) = (s.x (.data n)).extractLsb' 8 24 ++ v) ∧
  (∀ (n : Fin 8) (v : BitVec 16) (s t : State), regWrite (.data n) .W v s = .ok t →
    t.x (.data n) = (s.x (.data n)).extractLsb' 16 16 ++ v) ∧
  (∀ (n : Fin 8) (v : Word) (s t : State), regWrite (.data n) .L v s = .ok t → t.x (.data n) = v) ∧
  (∀ (n : Fin 8) (v : BitVec 16) (s t : State), regWrite (.addr n) .W v s = .ok t →
    t.x (.addr n) = v.signExtend 32) ∧
  (∀ (n : Fin 8) (v : Word) (s t : State), regWrite (.addr n) .L v s = .ok t → t.x (.addr n) = v) ∧
  (∀ (n : Fin 8) (s : State), regRead (.addr n) .B s = .error (.raise .illegalAddressingMode) ∧
    ∀ v, regWrite (.addr n) .B v s = .error (.raise .illegalAddressingMode))

/-- R135 to R142, R145: the location of each operand form, and the register it steps: predecrement uses the lowered
address, postincrement the old one, by the size, by 2 for a byte on `A7`; every other register and all memory are as
before. R146, R147: reading and writing a location is the access to its register or its memory. R151: the address of each
form that only has one computed, a label's own address among them, with nothing accessed. -/
def Obligations.AddressingModes : Prop :=
  (∀ (sz : Size) (s : State),
    (∀ r : Reg, readLoc (.reg r) sz s = regRead r sz s ∧ ∀ v, writeLoc (.reg r) sz v s = regWrite r sz v s) ∧
    (∀ addr : Word, readLoc (.mem addr) sz s = memRead addr sz s ∧
      ∀ v, writeLoc (.mem addr) sz v s = memWrite addr sz v s)) ∧
  (∀ (n : Fin 8) (d : Word) (r : Reg) (s : State),
    effAddr (.indirect n d none .plain) s = .ok (s.x (.addr n) + d) ∧
    effAddr (.indirect n d (some { reg := r, size := .long }) .plain) s = .ok (s.x (.addr n) + d + s.x r) ∧
    effAddr (.indirect n d (some { reg := r, size := .word }) .plain) s
      = .ok (s.x (.addr n) + d + ((s.x r).extractLsb' 0 16).signExtend 32)) ∧
  (∀ (addr : Word) (s : State), effAddr (.absolute addr) s = .ok addr ∧ effAddr (.address addr) s = .ok addr) ∧
  (∀ (v : Word) (sz : Size) (s : State), resolve (.immediate v) sz s = .ok (.imm v, s) ∧
    readLoc (.imm v) sz s = .ok (v.setWidth sz.bits)) ∧
  (∀ (r : Reg) (sz : Size) (s : State), resolve (.register r) sz s = .ok (.reg r, s)) ∧
  (∀ (n : Fin 8) (d : Word) (sz : Size) (s : State),
    resolve (.indirect n d none .plain) sz s = .ok (.mem (s.x (.addr n) + d), s)) ∧
  (∀ (n : Fin 8) (d : Word) (r : Reg) (sz : Size) (s : State),
    resolve (.indirect n d (some { reg := r, size := .long }) .plain) sz s
      = .ok (.mem (s.x (.addr n) + d + s.x r), s) ∧
    resolve (.indirect n d (some { reg := r, size := .word }) .plain) sz s
      = .ok (.mem (s.x (.addr n) + d + ((s.x r).extractLsb' 0 16).signExtend 32), s)) ∧
  (∀ (addr : Word) (sz : Size) (s : State), resolve (.absolute addr) sz s = .ok (.mem addr, s)) ∧
  (∀ (n : Fin 8) (sz : Size) (s : State), ∃ u,
    resolve (.indirect n 0 none .pre) sz s = .ok (.mem (u.x (.addr n)), u) ∧
      u.x (.addr n) = s.x (.addr n) - (if sz = .B ∧ n = 7 then 2 else BitVec.ofNat 32 sz.bytes) ∧
      OnlyChanges s u [.addr n] noByte ∧ u.flags = s.flags ∧ u.pc = s.pc) ∧
  (∀ (n : Fin 8) (sz : Size) (s : State), ∃ u,
    resolve (.indirect n 0 none .post) sz s = .ok (.mem (s.x (.addr n)), u) ∧
      u.x (.addr n) = s.x (.addr n) + (if sz = .B ∧ n = 7 then 2 else BitVec.ofNat 32 sz.bytes) ∧
      OnlyChanges s u [.addr n] noByte ∧ u.flags = s.flags ∧ u.pc = s.pc)

/-- R9, R62, R63, R146, R147, R314 (b) (the order is the spec's decisions D11 and D14): an instruction whose operand
cannot be read, or whose destination cannot be written, takes the fault of that access, the source's before the
destination's, and changes nothing else. -/
def Obligations.OperandFaults : Prop :=
  ∀ (sz : Size) (x y : Operand) (s u w : State) (lx ly : Loc) (f : Fault), resolve x sz s = .ok (lx, u) →
    (readLoc lx sz u = .error (.raise f) →
      (∀ i ∈ [Instr.move sz x y, Instr.add sz x y, Instr.sub sz x y, Instr.cmp sz x y, Instr.and sz x y, Instr.or sz x y,
          Instr.tst sz x, Instr.neg sz x, Instr.not sz x, Instr.addq sz y x, Instr.subq sz y x],
        i.wellFormed = true → exec i s = .next (takeFault f s)) ∧
      (sz ≠ .B → ∀ i ∈ [Instr.adda sz x y, Instr.suba sz x y], i.wellFormed = true → exec i s = .next (takeFault f s)) ∧
      (sz = .W → ∀ i ∈ [Instr.mulsW x y, .muluW x y, .divsW x y, .divuW x y], i.wellFormed = true →
        exec i s = .next (takeFault f s)) ∧
      (sz = .W → ∀ op : ShiftOp, x.isMemAlt = true → exec (Instr.shifted op .W (.memory x)) s = .next (takeFault f s)) ∧
      (sz = .B → ∀ op : BitOp, (Instr.bitOnByte op y x).wellFormed = true →
        exec (Instr.bitOnByte op y x) s = .next (takeFault f s))) ∧
    (∀ v : BitVec sz.bits, readLoc lx sz u = .ok v → resolve y sz u = .ok (ly, w) →
      (readLoc ly sz w = .error (.raise f) →
        ∀ i ∈ [Instr.add sz x y, Instr.sub sz x y, Instr.and sz x y, Instr.or sz x y, Instr.eor sz x y],
          i.wellFormed = true → exec i s = .next (takeFault f s)) ∧
      (writeLoc ly sz v w = .error (.raise f) → (Instr.move sz x y).wellFormed = true →
        exec (Instr.move sz x y) s = .next (takeFault f s))) ∧
    (∀ v : BitVec sz.bits, writeLoc lx sz v u = .error (.raise f) → sz = .B → ∀ k : Cond, x.isDataAlt = true →
      exec (Instr.setOn k x) s = .next (takeFault f s))

/-! ## Data movement -/

/-- R170 (with the order of R148): MOVE.B, MOVE.W, MOVE.L complete whenever the source reads and the destination can be
written; the destination holds the value, `N` and `Z` are the value's, `V = C = 0`, `X` is unchanged, nothing else
changes. -/
def Obligations.MoveCopies : Prop :=
  ∀ (sz : Size) (src dst : Operand) (s u w : State) (ls ld : Loc) (v : BitVec sz.bits),
    (Instr.move sz src dst).wellFormed = true → Reads src sz s ls u v → resolve dst sz u = .ok (ld, w) →
    ld.writable sz w →
    ∃ t, exec (Instr.move sz src dst) s = .next t ∧ Wrote s w t (src.steps ++ dst.steps) ld sz v ∧
      t.flags = { x := s.flags.x, n := v.msb, z := v == 0, v := false, c := false }

/-- R171: MOVEQ completes in every admitted form, loads the constant into the whole register and sets the flags of a long
MOVE. That the byte is sign-extended is general knowledge of the spec. -/
def Obligations.MoveqLoads : Prop :=
  ∀ (v : Word) (n : Fin 8) (s : State), -128 ≤ v.toInt → v.toInt ≤ 127 →
    ∃ t, exec (.moveqL (.immediate v) (.register (.data n))) s = .next t ∧ WroteReg s s t [] (.data n) v ∧
      t.flags = { x := s.flags.x, n := v.msb, z := v == 0, v := false, c := false }

/-! ## Addition, subtraction, comparison -/

/-- R182, R184, R180: ADD and ADDQ at every size complete whenever both operands read; the destination becomes the sum,
`C` is the carry, `X = C`, `V` says the exact signed sum does not fit, `N` and `Z` are the result's. -/
def Obligations.AddAdds : Prop :=
  ∀ (sz : Size) (src dst : Operand) (s u w : State) (ls ld : Loc) (a b : BitVec sz.bits),
    Reads src sz s ls u a → Reads dst sz u ld w b →
    ∀ i ∈ [Instr.add sz src dst, Instr.addq sz src dst], i.wellFormed = true →
      ∃ t, exec i s = .next t ∧ Wrote s w t (src.steps ++ dst.steps) ld sz (b + a) ∧
        t.flags.c = decide (2 ^ sz.bits ≤ a.toNat + b.toNat) ∧ t.flags.x = t.flags.c ∧
        t.flags.v = decide (a.toInt + b.toInt ≠ (b + a).toInt) ∧
        t.flags.n = (b + a).msb ∧ t.flags.z = (b + a == 0)

/-- R185, R187, R181: SUB and SUBQ at every size complete whenever both operands read; the destination becomes destination
minus source, `C` is the borrow, `X = C`, `V` says the exact signed difference does not fit. -/
def Obligations.SubSubtracts : Prop :=
  ∀ (sz : Size) (src dst : Operand) (s u w : State) (ls ld : Loc) (a b : BitVec sz.bits),
    Reads src sz s ls u a → Reads dst sz u ld w b →
    ∀ i ∈ [Instr.sub sz src dst, Instr.subq sz src dst], i.wellFormed = true →
      ∃ t, exec i s = .next t ∧ Wrote s w t (src.steps ++ dst.steps) ld sz (b - a) ∧
        t.flags.c = decide (b.toNat < a.toNat) ∧ t.flags.x = t.flags.c ∧
        t.flags.v = decide (b.toInt - a.toInt ≠ (b - a).toInt) ∧
        t.flags.n = (b - a).msb ∧ t.flags.z = (b - a == 0)

/-- R190: NEG at every size completes whenever its operand reads; the operand becomes its negation, `C = X` says it was not
zero, `V` says it was the most negative value. -/
def Obligations.NegNegates : Prop :=
  ∀ (sz : Size) (dst : Operand) (s w : State) (ld : Loc) (v : BitVec sz.bits),
    (Instr.neg sz dst).wellFormed = true → Reads dst sz s ld w v →
    ∃ t, exec (Instr.neg sz dst) s = .next t ∧ Wrote s w t dst.steps ld sz (-v) ∧
      t.flags = { x := v != 0, n := (-v).msb, z := v == 0, v := v == BitVec.intMin sz.bits, c := v != 0 }

/-- R183, R186: ADDA and SUBA at `W` and `L` complete whenever the source reads; the whole address register takes part, the
source sign-extended (the spec's decision D39), and no flag changes. -/
def Obligations.AddressArithmetic : Prop :=
  ∀ (sz : Size) (src : Operand) (n : Fin 8) (s u : State) (ls : Loc) (a : BitVec sz.bits), sz ≠ .B →
    Reads src sz s ls u a →
    ((Instr.adda sz src (.register (.addr n))).wellFormed = true →
      ∃ t, exec (Instr.adda sz src (.register (.addr n))) s = .next t ∧
        WroteReg s u t src.steps (.addr n) (u.x (.addr n) + a.signExtend 32) ∧ t.flags = s.flags) ∧
    ((Instr.suba sz src (.register (.addr n))).wellFormed = true →
      ∃ t, exec (Instr.suba sz src (.register (.addr n))) s = .next t ∧
        WroteReg s u t src.steps (.addr n) (u.x (.addr n) - a.signExtend 32) ∧ t.flags = s.flags)

/-- R188: CMP at every size completes whenever the source reads; the flags are those of `Dn - source`, `X`, `Dn` and all
else unchanged. -/
def Obligations.CmpCompares : Prop :=
  ∀ (sz : Size) (src : Operand) (n : Fin 8) (s u : State) (ls : Loc) (a b : BitVec sz.bits),
    (Instr.cmp sz src (.register (.data n))).wellFormed = true → Reads src sz s ls u a →
    b = (u.x (.data n)).setWidth sz.bits →
    ∃ t, exec (Instr.cmp sz src (.register (.data n))) s = .next t ∧ WroteNothing s u t src.steps ∧
      t.flags = { x := s.flags.x, n := (b - a).msb, z := b - a == 0,
                  v := decide (b.toInt - a.toInt ≠ (b - a).toInt), c := decide (b.toNat < a.toNat) }

/-- R188 with R250: after `CMP.sz s, Dn` each condition is the order relation its name says, unsigned or signed. -/
def Obligations.CompareConditions : Prop :=
  ∀ (sz : Size) (src : Operand) (n : Fin 8) (s u t : State) (ls : Loc) (a b : BitVec sz.bits),
    (Instr.cmp sz src (.register (.data n))).wellFormed = true → Reads src sz s ls u a →
    b = (u.x (.data n)).setWidth sz.bits → exec (Instr.cmp sz src (.register (.data n))) s = .next t →
    Machine.cond .eq t.flags = decide (b = a) ∧ Machine.cond .ne t.flags = decide (b ≠ a) ∧
      Machine.cond .hi t.flags = decide (a.toNat < b.toNat) ∧ Machine.cond .ls t.flags = decide (b.toNat ≤ a.toNat) ∧
      Machine.cond .cc t.flags = decide (a.toNat ≤ b.toNat) ∧ Machine.cond .cs t.flags = decide (b.toNat < a.toNat) ∧
      Machine.cond .ge t.flags = decide (a.toInt ≤ b.toInt) ∧ Machine.cond .lt t.flags = decide (b.toInt < a.toInt) ∧
      Machine.cond .gt t.flags = decide (a.toInt < b.toInt) ∧ Machine.cond .le t.flags = decide (b.toInt ≤ a.toInt)

/-- R189: TST at every size completes whenever its operand reads; `N` and `Z` are the operand's, `V = C = 0`, `X` unchanged
(the spec's decision D41), nothing written. -/
def Obligations.TstTests : Prop :=
  ∀ (sz : Size) (dst : Operand) (s u : State) (l : Loc) (v : BitVec sz.bits),
    (Instr.tst sz dst).wellFormed = true → Reads dst sz s l u v →
    ∃ t, exec (Instr.tst sz dst) s = .next t ∧ WroteNothing s u t dst.steps ∧
      t.flags = { x := s.flags.x, n := v.msb, z := v == 0, v := false, c := false }

/-! ## Multiplication and division -/

/-- R201, R202 (widths: the spec's decision D19): MULS and MULU complete whenever the source reads; the register holds the
exact product of the two words, signed or unsigned. -/
def Obligations.Multiplies : Prop :=
  ∀ (src : Operand) (n : Fin 8) (s u : State) (ls : Loc) (a : BitVec 16), src.isData = true → Reads src .W s ls u a →
    (∃ t, exec (.mulsW src (.register (.data n))) s = .next t ∧
      (t.x (.data n)).toInt = a.toInt * ((u.x (.data n)).setWidth 16).toInt ∧
      WroteReg s u t src.steps (.data n) (t.x (.data n)) ∧
      t.flags = { x := s.flags.x, n := (t.x (.data n)).msb, z := t.x (.data n) == 0, v := false, c := false }) ∧
    (∃ t, exec (.muluW src (.register (.data n))) s = .next t ∧
      (t.x (.data n)).toNat = a.toNat * ((u.x (.data n)).setWidth 16).toNat ∧
      WroteReg s u t src.steps (.data n) (t.x (.data n)) ∧
      t.flags = { x := s.flags.x, n := (t.x (.data n)).msb, z := t.x (.data n) == 0, v := false, c := false })

/-- R203, R200 (widths and rounding: the spec's decision D19; faults: D20): DIVS completes when the divisor is not zero and
the quotient fits a signed word; the low word is the quotient toward zero, the high word the remainder, zero or with the
dividend's sign and smaller than the divisor. A zero divisor raises DivisionByZero, a quotient that does not fit
DivisionOverflow, with nothing else changed. -/
def Obligations.DivsDivides : Prop :=
  ∀ (src : Operand) (n : Fin 8) (s u : State) (ls : Loc) (a : BitVec 16), src.isData = true → Reads src .W s ls u a →
    (a ≠ 0 → -32768 ≤ (u.x (.data n)).toInt.tdiv a.toInt → (u.x (.data n)).toInt.tdiv a.toInt ≤ 32767 →
      ∃ t q r, exec (.divsW src (.register (.data n))) s = .next t ∧
        q = ((t.x (.data n)).extractLsb' 0 16).toInt ∧ r = ((t.x (.data n)).extractLsb' 16 16).toInt ∧
        q = (u.x (.data n)).toInt.tdiv a.toInt ∧ q * a.toInt + r = (u.x (.data n)).toInt ∧
        r.natAbs < a.toInt.natAbs ∧ (r = 0 ∨ (r < 0 ↔ (u.x (.data n)).toInt < 0)) ∧
        WroteReg s u t src.steps (.data n) (t.x (.data n)) ∧
        t.flags = { x := s.flags.x, n := decide (q < 0), z := q == 0, v := false, c := false }) ∧
    (a = 0 → exec (.divsW src (.register (.data n))) s = .next (takeFault .divisionByZero s)) ∧
    (a ≠ 0 → (u.x (.data n)).toInt.tdiv a.toInt < -32768 ∨ 32767 < (u.x (.data n)).toInt.tdiv a.toInt →
      exec (.divsW src (.register (.data n))) s = .next (takeFault .divisionOverflow s))

/-- R204, R200 (widths: the spec's decision D19; faults: D20): DIVU completes when the divisor is not zero and the quotient
fits a word; the low word is the quotient, the high word the remainder. A zero divisor raises DivisionByZero, a quotient that
does not fit DivisionOverflow, with nothing else changed. -/
def Obligations.DivuDivides : Prop :=
  ∀ (src : Operand) (n : Fin 8) (s u : State) (ls : Loc) (a : BitVec 16), src.isData = true → Reads src .W s ls u a →
    (a ≠ 0 → (u.x (.data n)).toNat / a.toNat ≤ 0xFFFF →
      ∃ t q r, exec (.divuW src (.register (.data n))) s = .next t ∧
        q = (t.x (.data n)).extractLsb' 0 16 ∧ r = (t.x (.data n)).extractLsb' 16 16 ∧
        q.toNat * a.toNat + r.toNat = (u.x (.data n)).toNat ∧ r.toNat < a.toNat ∧
        WroteReg s u t src.steps (.data n) (t.x (.data n)) ∧
        t.flags = { x := s.flags.x, n := q.msb, z := q == 0, v := false, c := false }) ∧
    (a = 0 → exec (.divuW src (.register (.data n))) s = .next (takeFault .divisionByZero s)) ∧
    (a ≠ 0 → 0xFFFF < (u.x (.data n)).toNat / a.toNat →
      exec (.divuW src (.register (.data n))) s = .next (takeFault .divisionOverflow s))

/-! ## Logic, sign extension, swap -/

/-- R211 to R213, R210: AND, OR, EOR at every size complete whenever both operands read; the destination becomes the
bitwise result, `N` and `Z` are its, `V = C = 0`, `X` unchanged. -/
def Obligations.LogicCombines : Prop :=
  ∀ (sz : Size) (src dst : Operand) (s u w : State) (ls ld : Loc) (a b : BitVec sz.bits),
    Reads src sz s ls u a → Reads dst sz u ld w b →
    ∀ p ∈ [(Instr.and sz src dst, a &&& b), (Instr.or sz src dst, a ||| b), (Instr.eor sz src dst, a ^^^ b)],
      p.1.wellFormed = true →
      ∃ t, exec p.1 s = .next t ∧ Wrote s w t (src.steps ++ dst.steps) ld sz p.2 ∧
        t.flags = { x := s.flags.x, n := p.2.msb, z := p.2 == 0, v := false, c := false }

/-- R214, R210: NOT at every size completes whenever its operand reads; the operand becomes `2^bits - 1` minus it. -/
def Obligations.NotInverts : Prop :=
  ∀ (sz : Size) (dst : Operand) (s w : State) (ld : Loc) (v r : BitVec sz.bits),
    (Instr.not sz dst).wellFormed = true → Reads dst sz s ld w v → r.toNat = 2 ^ sz.bits - 1 - v.toNat →
    ∃ t, exec (Instr.not sz dst) s = .next t ∧ Wrote s w t dst.steps ld sz r ∧
      t.flags = { x := s.flags.x, n := r.msb, z := r == 0, v := false, c := false }

/-- R215, R216: EXT.W, EXT.L and SWAP complete in every state; the register keeps its upper word under EXT.W, takes the
sign-extended word under EXT.L, and its two halves exchanged under SWAP; `N` and `Z` are the result's. -/
def Obligations.ExtSwap : Prop :=
  ∀ (n : Fin 8) (s : State) (old : Word), old = s.x (.data n) →
    (∃ (t : State) (r : BitVec 16), exec (.extW (.register (.data n))) s = .next t ∧ r = (old.extractLsb' 0 8).signExtend 16 ∧
      WroteReg s s t [] (.data n) (old.extractLsb' 16 16 ++ r) ∧
      t.flags = { x := s.flags.x, n := r.msb, z := r == 0, v := false, c := false }) ∧
    (∃ (t : State) (r : Word), exec (.extL (.register (.data n))) s = .next t ∧ r = (old.extractLsb' 0 16).signExtend 32 ∧
      WroteReg s s t [] (.data n) r ∧
      t.flags = { x := s.flags.x, n := r.msb, z := r == 0, v := false, c := false }) ∧
    (∃ (t : State) (r : Word), exec (.swapW (.register (.data n))) s = .next t ∧ r = old.extractLsb' 0 16 ++ old.extractLsb' 16 16 ∧
      WroteReg s s t [] (.data n) r ∧
      t.flags = { x := s.flags.x, n := r.msb, z := r == 0, v := false, c := false })

/-! ## Shifts and rotates -/

/-- R225, forms 1 and 2 (the spec's decision D18): every shift and rotate of a register at every size completes in every
state, by an immediate 1 to 8 or by the low six bits of `Dm`; the register takes the shifted value over its low bits, and
the flags are those of the shift (`ShiftValues`, `ShiftFlags`). -/
def Obligations.ShiftRegister : Prop :=
  ∀ (op : ShiftOp) (sz : Size) (count : Operand) (n : Fin 8) (s : State) (c : Nat) (v : BitVec sz.bits),
    ((∃ k : Word, count = .immediate k ∧ 1 ≤ k.toNat ∧ k.toNat ≤ 8 ∧ c = k.toNat) ∨
      ∃ m, count = .register (.data m) ∧ c = (s.x (.data m)).toNat % 64) →
    v = (s.x (.data n)).setWidth sz.bits →
    ∃ t, exec (Instr.shifted op sz (.counted count (.register (.data n)))) s = .next t ∧
      WroteReg s s t [] (.data n) (mergeReg (.data n) sz (s.x (.data n)) (shiftCompute op c v s.flags).value) ∧
      t.flags = (shiftCompute op c v s.flags).flags

/-- R225, form 3 (the spec's decision D18): every shift and rotate of a memory word completes whenever the word reads, and
shifts by one. -/
def Obligations.ShiftMemory : Prop :=
  ∀ (op : ShiftOp) (dst : Operand) (s w : State) (ld : Loc) (v : BitVec 16), dst.isMemAlt = true →
    Reads dst .W s ld w v →
    ∃ t, exec (Instr.shifted op .W (.memory dst)) s = .next t ∧
      Wrote s w t dst.steps ld .W (shiftCompute op 1 v s.flags).value ∧
      t.flags = (shiftCompute op 1 v s.flags).flags

/-- R226 to R232, the values: a shift by `c` is the `c`-fold shift or rotate of the bit vector, arithmetic right shifts
keeping the sign; a zero count leaves the operand. -/
def Obligations.ShiftValues : Prop :=
  ∀ (sz : Size) (v : BitVec sz.bits) (c : Nat) (f : Flags),
    (shiftCompute .asl c v f).value = v <<< c ∧ (shiftCompute .lsl c v f).value = v <<< c ∧
      (shiftCompute .lsr c v f).value = v >>> c ∧ (shiftCompute .asr c v f).value = v.sshiftRight c ∧
      (shiftCompute .rol c v f).value = v.rotateLeft c ∧ (shiftCompute .ror c v f).value = v.rotateRight c

/-- R226 to R232, the flags: `N` and `Z` are the result's; for a count of at least one, `C` is the last bit out, `X = C` for
shifts and unchanged for rotates, `V` is set exactly when ASL changed the sign at any time (the spec's decision D17); a zero
count clears `V` and `C` and leaves `X` (D16). -/
def Obligations.ShiftFlags : Prop :=
  ∀ (sz : Size) (v : BitVec sz.bits) (c : Nat) (f : Flags) (op : ShiftOp),
    (shiftCompute op c v f).flags.n = (shiftCompute op c v f).value.msb ∧
      (shiftCompute op c v f).flags.z = ((shiftCompute op c v f).value == 0) ∧
      (c = 0 → (shiftCompute op c v f).flags.c = false ∧ (shiftCompute op c v f).flags.v = false ∧
        (shiftCompute op c v f).flags.x = f.x) ∧
      (1 ≤ c →
        (shiftCompute op c v f).flags.c =
          (match op with
            | .asl | .lsl => (v <<< (c - 1)).msb
            | .asr => (v.sshiftRight (c - 1)).getLsbD 0
            | .lsr => (v >>> (c - 1)).getLsbD 0
            | .rol => (v.rotateLeft c).getLsbD 0
            | .ror => (v.rotateRight c).msb) ∧
        (shiftCompute op c v f).flags.x =
          (match op with
            | .asl | .asr | .lsl | .lsr => (shiftCompute op c v f).flags.c
            | .rol | .ror => f.x) ∧
        ((shiftCompute op c v f).flags.v = true ↔ op = .asl ∧ ∃ k ≤ c, (v <<< k).msb ≠ v.msb))

/-! ## Single bits -/

/-- R240 to R244 on a data register (the spec's decision D33): the four instructions complete in every state; `Z` says the
bit was zero, the bit changes as the instruction says, no other bit, flag or register changes. -/
def Obligations.BitOnRegister : Prop :=
  ∀ (op : BitOp) (bitnum : Operand) (n : Fin 8) (s : State) (num : Word) (k : Nat) (old : Word),
    (bitnum = .immediate num ∨ ∃ m, bitnum = .register (.data m) ∧ num = s.x (.data m)) → k = num.toNat % 32 →
    old = s.x (.data n) →
    ∃ t, exec (Instr.bitOnReg op bitnum (.register (.data n))) s = .next t ∧
      t.flags = { s.flags with z := !old.getLsbD k } ∧
      (∀ j, (t.x (.data n)).getLsbD j = if j = k then bitAfter op (old.getLsbD k) else old.getLsbD j) ∧
      WroteReg s s t [] (.data n) (t.x (.data n))

/-- R240 to R244 on a memory byte (the spec's decision D33): the four instructions complete whenever the byte reads; BTST
writes nothing, the others write the byte with the one bit changed. -/
def Obligations.BitOnByte : Prop :=
  ∀ (op : BitOp) (bitnum dst : Operand) (s w : State) (ld : Loc) (num : Word) (k : Nat) (old : BitVec 8),
    (bitnum = .immediate num ∨ ∃ m, bitnum = .register (.data m) ∧ num = s.x (.data m)) → k = num.toNat % 8 →
    dst.isMemAlt = true → Reads dst .B s ld w old →
    ∃ t r, exec (Instr.bitOnByte op bitnum dst) s = .next t ∧
      t.flags = { s.flags with z := !old.getLsbD k } ∧
      (∀ j, r.getLsbD j = if j = k then bitAfter op (old.getLsbD k) else old.getLsbD j) ∧
      (op = .tst → WroteNothing s w t dst.steps) ∧ (op ≠ .tst → Wrote s w t dst.steps ld .B r)

/-! ## Branches and calls -/

/-- R250 to R252: all sixteen Bcc and BRA complete in every state; `pc` is the target when the condition holds and the next
entry when it does not; nothing else changes; and the truth of each condition. -/
def Obligations.Branches : Prop :=
  ∀ (target : Word) (s : State) (f : Flags), f = s.flags →
    (Machine.cond .t f = true ∧ Machine.cond .f f = false ∧ (Machine.cond .hi f = true ↔ f.c = false ∧ f.z = false) ∧
      (Machine.cond .ls f = true ↔ f.c = true ∨ f.z = true) ∧ (Machine.cond .cc f = true ↔ f.c = false) ∧
      (Machine.cond .cs f = true ↔ f.c = true) ∧ (Machine.cond .ne f = true ↔ f.z = false) ∧ (Machine.cond .eq f = true ↔ f.z = true) ∧
      (Machine.cond .vc f = true ↔ f.v = false) ∧ (Machine.cond .vs f = true ↔ f.v = true) ∧ (Machine.cond .pl f = true ↔ f.n = false) ∧
      (Machine.cond .mi f = true ↔ f.n = true) ∧ (Machine.cond .ge f = true ↔ f.n = f.v) ∧ (Machine.cond .lt f = true ↔ f.n ≠ f.v) ∧
      (Machine.cond .gt f = true ↔ f.z = false ∧ f.n = f.v) ∧ (Machine.cond .le f = true ↔ f.z = true ∨ f.n ≠ f.v)) ∧
    (∀ k : Cond, ∃ t, exec (Instr.branchOn k (.address target)) s = .next t ∧
      t.pc = (if Machine.cond k f then target else s.pc + 4) ∧ OnlyJumps s t) ∧
    (∃ t, exec (.bra (.address target)) s = .next t ∧ t.pc = target ∧ OnlyJumps s t)

/-- R253, R254, R150, R151, R329: BSR and JSR in every form complete when the long below the stack pointer is accessible:
the address of the next entry is pushed, `pc` is the target computed before the push, a call record is pushed on the debug
call stack (its label the first one the program gives the target, if any: log 24; its stack pointer taken before or after the
push: log 17); when the long is not accessible the push faults and
nothing changes. -/
def Obligations.CallsPush : Prop :=
  ∀ (i : Instr) (op : Operand) (target : Word) (s : State), i.wellFormed = true →
    (i = .bsr op ∧ op = .address target ∨ i = .jsr op ∧ effAddr op s = .ok target) →
    (s.accessible (s.x .sp - 4) .L →
      ∃ t rec, exec i s = .next t ∧ t.pc = target ∧ t.x .sp = s.x .sp - 4 ∧
        t.mem.readBytes (s.x .sp - 4).toNat 4 = bytesOf .L (s.pc + 4) ∧
        OnlyChanges s t [.sp] (within (s.x .sp - 4) 4) ∧ t.flags = s.flags ∧
        t.callStack = rec :: s.callStack ∧ rec.label = s.program.labels.lookup target ∧
        (rec.sp = s.x .sp ∨ rec.sp = s.x .sp - 4)) ∧
    (∀ f, s.accessFault (s.x .sp - 4) .L = some f → exec i s = .next (takeFault f s))

/-- R255, R150: RTS completes when the long at the stack pointer is accessible: `pc` is that long, the stack pointer goes up
by 4, the debug call stack loses its newest record; when the long is not accessible the pop faults and nothing changes. -/
def Obligations.ReturnPops : Prop :=
  ∀ s : State,
    (s.accessible (s.x .sp) .L →
      ∃ t, exec .rts s = .next t ∧ t.pc = valueOf .L (s.mem.readBytes (s.x .sp).toNat 4) ∧
        t.x .sp = s.x .sp + 4 ∧ OnlyChanges s t [.sp] noByte ∧ t.flags = s.flags ∧
        t.callStack = s.callStack.tail) ∧
    (∀ f, s.accessFault (s.x .sp) .L = some f → exec .rts s = .next (takeFault f s))

/-- R253 to R255: a call, BSR or JSR in any form, followed at once by a return comes back to the entry after the call with
every register, the flags and the call stack as before, and no byte changed but the four below the stack pointer. -/
def Obligations.CallThenReturn : Prop :=
  ∀ (i : Instr) (op : Operand) (target : Word) (s : State), i.wellFormed = true →
    (i = .bsr op ∧ op = .address target ∨ i = .jsr op ∧ effAddr op s = .ok target) →
    s.accessible (s.x .sp - 4) .L →
    ∃ t u, exec i s = .next t ∧ t.pc = target ∧ exec .rts t = .next u ∧ u.pc = s.pc + 4 ∧
      OnlyChanges s u [] (within (s.x .sp - 4) 4) ∧ u.flags = s.flags ∧ u.callStack = s.callStack

/-- R256: all sixteen DBcc complete in every state: with the condition true only `pc` moves on; with it false the low word
of the counter goes down by one, and the branch is taken unless it became -1; no flag changes. -/
def Obligations.DbccCounts : Prop :=
  ∀ (k : Cond) (n : Fin 8) (target : Word) (s : State) (w : BitVec 16),
    w.toNat = ((s.x (.data n)).toNat % 2 ^ 16 + 0xFFFF) % 2 ^ 16 →
    (Machine.cond k s.flags = true → ∃ t, exec (Instr.decBranchOn k (.register (.data n)) (.address target)) s = .next t ∧
      t.pc = s.pc + 4 ∧ OnlyJumps s t) ∧
    (Machine.cond k s.flags = false → ∃ t, exec (Instr.decBranchOn k (.register (.data n)) (.address target)) s = .next t ∧
      t.pc = (if w = 0xFFFF then s.pc + 4 else target) ∧
      t.x (.data n) = (s.x (.data n)).extractLsb' 16 16 ++ w ∧ OnlyChanges s t [.data n] noByte ∧
      t.flags = s.flags ∧ t.callStack = s.callStack)

/-- R257 (the values are the spec's decision D32): all sixteen Scc complete whenever the destination byte can be written: it
becomes all ones or zero, no flag changes. -/
def Obligations.SccSets : Prop :=
  ∀ (k : Cond) (dst : Operand) (s w : State) (ld : Loc), dst.isDataAlt = true → resolve dst .B s = .ok (ld, w) →
    ld.writable .B w →
    ∃ t, exec (Instr.setOn k dst) s = .next t ∧
      Wrote s w t dst.steps ld .B (if Machine.cond k s.flags then 0xFF else 0x00) ∧ t.flags = s.flags

/-! ## Addresses, frames, register lists -/

/-- R275, R276, R151: LEA completes in every state and loads the address, which is not accessed; PEA completes when the long
below the stack pointer is accessible and pushes the address computed before the push; when it is not accessible the push
faults and nothing changes. No flag changes. -/
def Obligations.LeaPea : Prop :=
  ∀ (src : Operand) (s : State) (ea : Word), src.isCtrl = true → effAddr src s = .ok ea →
    (∀ n : Fin 8, ∃ t, exec (.leaL src (.register (.addr n))) s = .next t ∧ WroteReg s s t [] (.addr n) ea ∧
      t.flags = s.flags) ∧
    (s.accessible (s.x .sp - 4) .L →
      ∃ t, exec (.peaL src) s = .next t ∧ t.x .sp = s.x .sp - 4 ∧
        t.mem.readBytes (s.x .sp - 4).toNat 4 = bytesOf .L ea ∧
        OnlyChanges s t [.sp] (within (s.x .sp - 4) 4) ∧ FallsThrough s t ∧ t.flags = s.flags) ∧
    (∀ f, s.accessFault (s.x .sp - 4) .L = some f → exec (.peaL src) s = .next (takeFault f s))

/-- R277, R278: LINK completes when the long below the stack pointer is accessible: it pushes `An`, sets `An` to the new
stack pointer and adds the displacement to it; UNLK completes when the long at `An` is accessible: the stack pointer goes
above it and `An` takes it; a push or pop that is not accessible faults and nothing changes. UNLK after LINK restores every
register. That no flag changes is general knowledge of the spec; `LINK A7` and `UNLK A7` are no admitted forms (its decision
D22). -/
def Obligations.LinkUnlk : Prop :=
  ∀ (n : Fin 8) (v : Word) (s : State), n ≠ 7 →
    (s.accessible (s.x .sp - 4) .L →
      ∃ t, exec (.link (.register (.addr n)) (.immediate v)) s = .next t ∧ t.x (.addr n) = s.x .sp - 4 ∧
        t.x .sp = s.x .sp - 4 + v ∧ t.mem.readBytes (s.x .sp - 4).toNat 4 = bytesOf .L (s.x (.addr n)) ∧
        OnlyChanges s t [.addr n, .sp] (within (s.x .sp - 4) 4) ∧ FallsThrough s t ∧ t.flags = s.flags ∧
        ∃ u, exec (.unlk (.register (.addr n))) t = .next u ∧ ∀ r, u.x r = s.x r) ∧
    (s.accessible (s.x (.addr n)) .L →
      ∃ t, exec (.unlk (.register (.addr n))) s = .next t ∧ t.x .sp = s.x (.addr n) + 4 ∧
        t.x (.addr n) = valueOf .L (s.mem.readBytes (s.x (.addr n)).toNat 4) ∧
        OnlyChanges s t [.addr n, .sp] noByte ∧ FallsThrough s t ∧ t.flags = s.flags) ∧
    (∀ f, s.accessFault (s.x .sp - 4) .L = some f →
      exec (.link (.register (.addr n)) (.immediate v)) s = .next (takeFault f s)) ∧
    (∀ f, s.accessFault (s.x (.addr n)) .L = some f →
      exec (.unlk (.register (.addr n))) s = .next (takeFault f s))

/-- R102, R274, R279 (the spec's decision D21): the listed registers are those whose bits are set, in the order
`D0 .. D7, A0 .. A7`; MOVEM.W and MOVEM.L to memory complete when every slot is accessible: the listed registers lie at
ascending addresses from the effective address, or end below the old `An` with `-(An)`, which then holds the lowest address;
no other byte and no other register changes. When a slot is not accessible the fault of a slot is taken and nothing
changes. -/
def Obligations.MovemStores : Prop :=
  ∀ (sz : Size) (reglist : BitVec 16) (dst : Operand) (s : State) (base : Word) (rs : List Reg), sz ≠ .B →
    rs = listedRegs reglist →
    (∀ n : Fin 8, (.data n ∈ rs ↔ reglist.getLsbD n.val = true) ∧ (.addr n ∈ rs ↔ reglist.getLsbD (8 + n.val) = true)) ∧
    rs.Pairwise (fun r r' =>
      match r, r' with
      | .data n, .data m => n < m
      | .data _, .addr _ => True
      | .addr n, .addr m => n < m
      | .addr _, .data _ => False) ∧
    ((Instr.movemStore sz reglist dst).wellFormed = true →
      (effAddr dst s = .ok base ∨ ∃ n, dst = .indirect n 0 none .pre ∧
        base = s.x (.addr n) - BitVec.ofNat 32 (sz.bytes * rs.length)) →
      ((∀ j < rs.length, s.accessible (base + BitVec.ofNat 32 (sz.bytes * j)) sz) →
        ∃ t, exec (Instr.movemStore sz reglist dst) s = .next t ∧
          (∀ j r, rs[j]? = some r → t.mem.readBytes (base + BitVec.ofNat 32 (sz.bytes * j)).toNat sz.bytes
            = bytesOf sz ((s.x r).setWidth sz.bits)) ∧
          (∀ n, dst = .indirect n 0 none .pre → t.x (.addr n) = base) ∧
          OnlyChanges s t dst.steps (fun b => ∃ j < rs.length,
            within (base + BitVec.ofNat 32 (sz.bytes * j)) sz.bytes b) ∧
          FallsThrough s t ∧ t.flags = s.flags) ∧
      (∀ j < rs.length, s.accessFault (base + BitVec.ofNat 32 (sz.bytes * j)) sz ≠ none →
        ∃ f, exec (Instr.movemStore sz reglist dst) s = .next (takeFault f s) ∧
          ∃ k < rs.length, s.accessFault (base + BitVec.ofNat 32 (sz.bytes * k)) sz = some f))

/-- R102, R274, R280 (the spec's decision D21): MOVEM.W and MOVEM.L from memory complete when every slot is accessible:
each listed register takes its slot, a word sign-extended into an address register and into the low word of a data register
(`MOVEM_W_DN`), `(An)+` ends past the last slot; memory and every other register are as before. When a slot is not
accessible the fault of a slot is taken and nothing changes. -/
def Obligations.MovemLoads : Prop :=
  ∀ (sz : Size) (reglist : BitVec 16) (src : Operand) (s : State) (base : Word), sz ≠ .B →
    (Instr.movemLoad sz src reglist).wellFormed = true →
    (effAddr src s = .ok base ∨ ∃ n, src = .indirect n 0 none .post ∧ base = s.x (.addr n)) →
    ((∀ j < (listedRegs reglist).length, s.accessible (base + BitVec.ofNat 32 (sz.bytes * j)) sz) →
      ∃ t, exec (Instr.movemLoad sz src reglist) s = .next t ∧
        (∀ j r, (listedRegs reglist)[j]? = some r →
          t.x r = mergeReg r sz (s.x r)
            (valueOf sz (s.mem.readBytes (base + BitVec.ofNat 32 (sz.bytes * j)).toNat sz.bytes))) ∧
        (∀ n, src = .indirect n 0 none .post →
          t.x (.addr n) = base + BitVec.ofNat 32 (sz.bytes * (listedRegs reglist).length)) ∧
        OnlyChanges s t (listedRegs reglist ++ src.steps) noByte ∧ FallsThrough s t ∧ t.flags = s.flags) ∧
    (∀ j < (listedRegs reglist).length, s.accessFault (base + BitVec.ofNat 32 (sz.bytes * j)) sz ≠ none →
      ∃ f, exec (Instr.movemLoad sz src reglist) s = .next (takeFault f s) ∧
        ∃ k < (listedRegs reglist).length, s.accessFault (base + BitVec.ofNat 32 (sz.bytes * k)) sz = some f)

/-! ## TRAP and the host's answer -/

/-- R290 to R300, R316: TRAP #15 in every state: the tasks 2 to 6 and 8 fill the slot and pause, the string tasks do so when
the string lies in memory and raise AddressOutOfBounds when it does not, task 9 ends the run, every other task raises
IllegalInstruction (task numbers: the spec's decision D23); nothing else changes, and `pc` passes the trap, which the open
history entry records (log 13). That a string of no bytes is read at any address, also above memory, is log 30. -/
def Obligations.TrapTasks : Prop :=
  ∀ (s : State) (task len : Nat) (d1 a1 : Word), task = (s.x (.data 0)).toNat → d1 = s.x (.data 1) →
    a1 = s.x (.addr 1) → len = d1.toNat % 2 ^ 16 →
    (∀ p ∈ [(2, Interrupt.readKeyboardString), (3, .displayNumber d1.toInt), (4, .readNumber), (5, .readChar),
            (6, .displayChar (d1.extractLsb' 0 8)), (8, .getTime)],
      task = p.1 → exec (.trap (.immediate 15)) s
        = .next { s with curInterrupt := some p.2, status := .interrupt, pc := s.pc + 4,
                         openEntry := s.openEntry ++ [.writePc s.pc] }) ∧
    (∀ p ∈ [(0, Interrupt.displayStringWithCRLF), (1, Interrupt.displayStringWithoutCRLF)], task = p.1 →
      (len = 0 ∨ a1.toNat + len ≤ s.options.memSize → exec (.trap (.immediate 15)) s
        = .next { s with curInterrupt := some (p.2 (s.mem.readBytes a1.toNat len)), status := .interrupt,
                         pc := s.pc + 4, openEntry := s.openEntry ++ [.writePc s.pc] }) ∧
      (0 < len → s.options.memSize < a1.toNat + len → exec (.trap (.immediate 15)) s
        = .next (takeFault .addressOutOfBounds s))) ∧
    (task = 9 → exec (.trap (.immediate 15)) s
        = .next { s with status := .terminated, pc := s.pc + 4, openEntry := s.openEntry ++ [.writePc s.pc] }) ∧
    (task = 7 ∨ 10 ≤ task → exec (.trap (.immediate 15)) s = .next (takeFault .illegalInstruction s))

/-- R302, R303, R133: an accepted answer empties the slot, makes the engine run (or ends it at the end of the program) and
applies its result: a number or a time to all of `D1`, a character to its low byte, a string of at most 80 bytes to memory at
`A1` and its length to the low word of `D1`; every other register and byte, `pc`, the flags, the reason, the call stack and
the program are unchanged, and of the history only the newest entry, where there is one, grows, by the mutations of the answer
with the old values (log 13, 15). The
layout of the answers is the spec's decision D24, D25; that an empty string is accepted at any address, also above memory, is
log 30. -/
def Obligations.AnswerAccepted : Prop :=
  ∀ (s : State) (record : Interrupt) (r : InterruptResult), s.status = .interrupt → s.curInterrupt = some record →
    tagMatches r record = true →
    (∀ bs, r = .readKeyboardString bs → s.inBounds (s.x (.addr 1)) (bs.take 80).length = true) →
    ∃ t, answerInterrupt r s = (t, .accepted) ∧ t.curInterrupt = none ∧ t.pc = s.pc ∧ t.flags = s.flags ∧
      t.status = (if s.pc.toNat = instrEnd s.program then .terminated else .running) ∧
      t.reachedBottom = (s.reachedBottom || decide (s.pc.toNat = instrEnd s.program)) ∧
      (∀ x, x ≠ .data 1 → t.x x = s.x x) ∧ t.callStack = s.callStack ∧ t.program = s.program ∧
      t.options = s.options ∧ t.reason = s.reason ∧ t.undone = s.undone ∧ t.answers = s.answers ∧
      t.openEntry = s.openEntry ∧
      (∃ ms, t.history = appendToLast ms s.history ∧ ms = (match r with
        | .displayStringWithCRLF | .displayStringWithoutCRLF | .displayNumber | .displayChar => []
        | .readNumber _ | .getTime _ => [.writeRegister (.data 1) (s.x (.data 1)) .L]
        | .readChar _ => [.writeRegister (.data 1) (s.x (.data 1)) .B]
        | .readKeyboardString bs =>
          [.writeMemoryBytes (s.x (.addr 1)) (s.mem.readBytes (s.x (.addr 1)).toNat (min bs.length 80)),
            .writeRegister (.data 1) (s.x (.data 1)) .W])) ∧
      (match r with
        | .displayStringWithCRLF | .displayStringWithoutCRLF | .displayNumber | .displayChar =>
          t.x (.data 1) = s.x (.data 1) ∧ t.mem = s.mem
        | .readNumber n => t.x (.data 1) = n ∧ t.mem = s.mem
        | .getTime n => t.x (.data 1) = n ∧ t.mem = s.mem
        | .readChar c => t.x (.data 1) = (s.x (.data 1)).extractLsb' 8 24 ++ c ∧ t.mem = s.mem
        | .readKeyboardString bs =>
          t.x (.data 1) = (s.x (.data 1)).extractLsb' 16 16 ++ BitVec.ofNat 16 (min bs.length 80) ∧
          t.mem.readBytes (s.x (.addr 1)).toNat (min bs.length 80) = bs.take 80 ∧
          ∀ b, ¬ within (s.x (.addr 1)) (min bs.length 80) b → t.mem.readByte b = s.mem.readByte b)

/-- R304, R305: an answer with another tag is reported as InterruptMismatch, one outside status Interrupt is reported, and
neither changes anything; a keyboard string that leaves memory ends the run with AddressOutOfBounds and changes nothing else (the spec's decision D28). -/
def Obligations.AnswerTurnedAway : Prop :=
  (∀ (s : State) (record : Interrupt) (r : InterruptResult), s.status = .interrupt → s.curInterrupt = some record →
    tagMatches r record = false → answerInterrupt r s = (s, .rejected .interruptMismatch)) ∧
  (∀ (s : State) (r : InterruptResult), s.status ≠ .interrupt → answerInterrupt r s = (s, .notInterrupt)) ∧
  (∀ (s : State) (bs : List Byte), s.status = .interrupt → s.curInterrupt = some .readKeyboardString →
    s.inBounds (s.x (.addr 1)) (bs.take 80).length = false →
    answerInterrupt (.readKeyboardString bs) s
      = ({ s with status := .terminatedWithException, reason := some .addressOutOfBounds, curInterrupt := none },
          .faulted .addressOutOfBounds))

/-! ## What the host sees -/

/-- R26, R35, R331: the flag byte holds X, N, Z, V, C in bits 4 to 0 (the bits above read zero, the spec's decision D38), the
flag array is the single flags in that order, the snapshot holds the registers, `pc` and the flags, and a host register write
changes its register as R23 says and nothing else, the history included. -/
def Obligations.HostView : Prop :=
  (∀ f : Flags, (ccrByte f).getLsbD 4 = f.x ∧ (ccrByte f).getLsbD 3 = f.n ∧ (ccrByte f).getLsbD 2 = f.z ∧
    (ccrByte f).getLsbD 1 = f.v ∧ (ccrByte f).getLsbD 0 = f.c ∧
    (ccrByte f).getLsbD 7 = false ∧ (ccrByte f).getLsbD 6 = false ∧ (ccrByte f).getLsbD 5 = false ∧
    flagsArray f = [f.x, f.n, f.z, f.v, f.c]) ∧
  (∀ s : State, getFlagsAsArray s = [FlagName.x, .n, .z, .v, .c].map (fun f => getFlag f s) ∧
    getFlagsAsBitfield s = ccrByte s.flags ∧
    (∀ n : Fin 8, (getCpuSnapshot s).d[n.val] = s.x (.data n) ∧ (getCpuSnapshot s).a[n.val] = s.x (.addr n)) ∧
    (getCpuSnapshot s).pc = getPc s ∧ (getCpuSnapshot s).flags = s.flags) ∧
  (∀ (r : Reg) (v : Word) (sz : Size) (s : State), byteOnAddr r sz = false →
    ∃ t, setRegisterValue r v sz s = .ok t ∧ t.x r = mergeReg r sz (s.x r) (v.setWidth sz.bits) ∧
      OnlyChanges s t [r] noByte ∧ t.pc = s.pc ∧ t.flags = s.flags ∧ t.callStack = s.callStack ∧
      t.openEntry = s.openEntry)

/-- R330, R325, R363: a run variant takes no step outside status Running: in a terminal status it returns at once, in status
Interrupt it ends the run with UnansweredInterrupt (the spec's decision D27, log 27). `runWithLimit` stops at the first status
that is not Running whatever its limit; `runWithBreakpoints` runs as `runWithLimit` does where it meets no breakpoint, and
halts before the first one it meets, its own first instruction apart (log 18). What `run`, or a run to a breakpoint, ends in
is one state (log 19). In a run with its host, the answers shown in the result and those still to give are the host's answers
in order (the exchanges of the result are log 34), and a run that has ended is the same for every larger number of calls (log
11). -/
def Obligations.RunVariants : Prop :=
  (∀ (n : Nat) (bps : List Word) (s : State), s.undone = false → s.status = .terminated ∨ s.status = .terminatedWithException →
    runWithLimit n s = .next s ∧ runWithBreakpoints bps n s = .next s) ∧
  (∀ (n : Nat) (bps : List Word) (s : State), s.undone = false → s.status = .interrupt →
    runWithLimit n s = .next (takeFault .unansweredInterrupt s) ∧
      runWithBreakpoints bps n s = .next (takeFault .unansweredInterrupt s)) ∧
  (∀ (n m : Nat) (s t : State), runWithLimit n s = .next t → t.status ≠ .running → runWithLimit (n + m) s = .next t) ∧
  (∀ (n : Nat) (bps : List Word) (s : State), (∀ j < n, ∀ u, runWithLimit j s = .next u → u.pc ∉ bps) →
    runWithBreakpoints bps n s = runWithLimit n s) ∧
  (∀ (k m : Nat) (bps : List Word) (s t : State), 0 < k → (∀ j < k, ∀ u, runWithLimit j s = .next u → u.pc ∉ bps) →
    runWithLimit k s = .next t → t.status = .running → t.pc ∈ bps → runWithBreakpoints bps (k + m) s = .next t) ∧
  (∀ s t t' : State, RunsTo s t → RunsTo s t' → t = t') ∧
  (∀ (bps : List Word) (s t t' : State), RunsToBreakpoint bps s t → RunsToBreakpoint bps s t' → t = t') ∧
  (∀ (n m : Nat) (s : State) (r : RunResult), hostRun n s = .next r → hasTerminated r.state = true →
    hostRun (n + m) s = .next r) ∧
  (∀ (n : Nat) (s : State) (r : RunResult), Inv s → hostRun n s = .next r →
    r.exchanges.filterMap (fun e => e.answer.map Prod.fst) ++ r.state.answers = s.answers)
end

