-- ==== Sys2Proof/Laws/Memory.lean ====
section
/-! SUPPORT. Laws of the memory list: reading after writing, the canonical form kept, equal reads of canonical memories
are equal memories; and of the byte order. -/

namespace Sys2Proof.Machine

/-! ## One byte -/

@[simp] theorem readByte_nil (a : Nat) : Memory.readByte [] a = 0 := rfl

theorem readByte_cons (c : Host.Cell) (m : Memory) (a : Nat) :
    Memory.readByte (c :: m) a = if c.1 = a then c.2 else m.readByte a := by
  obtain ⟨k, v⟩ := c; rfl

theorem readByte_unlisted {m : Memory} {a : Nat} (h : ∀ c ∈ m, c.1 ≠ a) : m.readByte a = 0 := by
  induction m with
  | nil => rfl
  | cons c m ih =>
    rw [readByte_cons, if_neg (h c (by simp)), ih fun c hc => h c (by simp [hc])]

theorem readByte_forget (m : Memory) (a b : Nat) :
    (m.forget a).readByte b = if b = a then 0 else m.readByte b := by
  unfold Memory.forget
  induction m with
  | nil => simp
  | cons c m ih =>
    by_cases hc : c.1 = a
    · rw [List.filter_cons_of_neg (by simp [hc]), ih, readByte_cons]
      by_cases hb : b = a
      · simp [hb]
      · rw [if_neg hb, if_neg hb, if_neg (by omega)]
    · rw [List.filter_cons_of_pos (by simp [hc]), readByte_cons, readByte_cons, ih]
      by_cases hb : b = a
      · rw [if_pos hb, if_pos hb, if_neg (by omega)]
      · rw [if_neg hb, if_neg hb]

theorem mem_forget {m : Memory} {a : Nat} {c : Host.Cell} : c ∈ m.forget a ↔ c ∈ m ∧ c.1 ≠ a := by
  simp [Memory.forget]

theorem readByte_insertCell {m : Memory} {a : Nat} (h : ∀ c ∈ m, c.1 ≠ a) (v : Byte) (b : Nat) :
    (m.insertCell a v).readByte b = if b = a then v else m.readByte b := by
  induction m with
  | nil =>
    rw [Memory.insertCell, readByte_cons]
    simp only [eq_comm]
  | cons c m ih =>
    obtain ⟨k, w⟩ := c
    have hk : k ≠ a := h (k, w) (by simp)
    rw [Memory.insertCell]
    split
    · rw [readByte_cons]; simp only [eq_comm]
    · rw [readByte_cons, readByte_cons, ih fun c hc => h c (by simp [hc])]
      simp only
      by_cases hb : b = a
      · rw [if_pos hb, if_pos hb, if_neg (by omega)]
      · rw [if_neg hb, if_neg hb]

theorem mem_insertCell {m : Memory} {a : Nat} {v : Byte} {c : Host.Cell} :
    c ∈ m.insertCell a v ↔ c = (a, v) ∨ c ∈ m := by
  induction m with
  | nil => simp [Memory.insertCell]
  | cons d m ih =>
    obtain ⟨k, w⟩ := d
    rw [Memory.insertCell]
    split
    · simp
    · rw [List.mem_cons, ih, List.mem_cons]; tauto

/-- A byte reads as it was written, every other byte as before. -/
theorem readByte_writeByte (m : Memory) (a : Nat) (v : Byte) (b : Nat) :
    (m.writeByte a v).readByte b = if b = a then v else m.readByte b := by
  unfold Memory.writeByte
  split
  · next h => rw [readByte_forget, h]; rfl
  · rw [readByte_insertCell fun c hc => (mem_forget.1 hc).2, readByte_forget]
    by_cases hb : b = a <;> simp [hb]

theorem mem_writeByte {m : Memory} {a : Nat} {v : Byte} {c : Host.Cell} (h : c ∈ m.writeByte a v) :
    c.1 = a ∨ c ∈ m := by
  unfold Memory.writeByte at h
  split at h
  · exact .inr (mem_forget.1 h).1
  · rcases mem_insertCell.1 h with h | h
    · exact .inl (by rw [h])
    · exact .inr (mem_forget.1 h).1

/-! ## The canonical form -/

theorem wf_cons_cons (c d : Host.Cell) (m : Memory) :
    Memory.wf (c :: d :: m) = true ↔ c.2 ≠ 0 ∧ c.1 < d.1 ∧ Memory.wf (d :: m) = true := by
  obtain ⟨k, v⟩ := c
  obtain ⟨k', v'⟩ := d
  simp [Memory.wf, unlistedByte, and_assoc]

/-- The canonical form says: addresses rise strictly, and no listed byte is what an unlisted one reads as. -/
theorem wf_iff (m : Memory) : m.wf = true ↔ m.Pairwise (fun c d => c.1 < d.1) ∧ ∀ c ∈ m, c.2 ≠ 0 := by
  induction m with
  | nil => simp [Memory.wf]
  | cons c m ih =>
    cases m with
    | nil => obtain ⟨k, v⟩ := c; simp [Memory.wf, unlistedByte]
    | cons d m =>
      rw [wf_cons_cons, ih, List.pairwise_cons (a := c)]
      constructor
      · rintro ⟨hc, hcd, hp, hv⟩
        refine ⟨⟨fun e he => ?_, hp⟩, fun e he => ?_⟩
        · rcases List.mem_cons.1 he with rfl | he
          · exact hcd
          · exact lt_trans hcd ((List.pairwise_cons.1 hp).1 e he)
        · rcases List.mem_cons.1 he with rfl | he
          · exact hc
          · exact hv e he
      · rintro ⟨⟨hcd, hp⟩, hv⟩
        exact ⟨hv c (by simp), hcd d (by simp), hp, fun e he => hv e (by simp [he])⟩

theorem pairwise_insertCell {m : Memory} {a : Nat} (h : ∀ c ∈ m, c.1 ≠ a) (v : Byte)
    (hp : m.Pairwise (fun c d => c.1 < d.1)) : (m.insertCell a v).Pairwise (fun c d => c.1 < d.1) := by
  induction m with
  | nil => simp [Memory.insertCell]
  | cons c m ih =>
    obtain ⟨k, w⟩ := c
    have hk : k ≠ a := h (k, w) (by simp)
    obtain ⟨hlt, hp⟩ := List.pairwise_cons.1 hp
    rw [Memory.insertCell]
    split
    · next hak =>
      refine List.pairwise_cons.2 ⟨fun d hd => ?_, List.pairwise_cons.2 ⟨hlt, hp⟩⟩
      rcases List.mem_cons.1 hd with rfl | hd
      · exact hak
      · exact lt_trans hak (hlt d hd)
    · refine List.pairwise_cons.2 ⟨fun d hd => ?_, ih (fun c hc => h c (by simp [hc])) hp⟩
      rcases mem_insertCell.1 hd with rfl | hd
      · show k < a; omega
      · exact hlt d hd

/-- Writing a byte keeps the canonical form. -/
theorem wf_writeByte {m : Memory} (h : m.wf = true) (a : Nat) (v : Byte) : (m.writeByte a v).wf = true := by
  obtain ⟨hp, hv⟩ := (wf_iff m).1 h
  have hf : (m.forget a).Pairwise (fun c d => c.1 < d.1) := hp.sublist List.filter_sublist
  rw [wf_iff]
  unfold Memory.writeByte
  split
  · exact ⟨hf, fun c hc => hv c (mem_forget.1 hc).1⟩
  · next hne =>
    refine ⟨pairwise_insertCell (fun c hc => (mem_forget.1 hc).2) v hf, fun c hc => ?_⟩
    rcases mem_insertCell.1 hc with rfl | hc
    · exact hne
    · exact hv c (mem_forget.1 hc).1

theorem readByte_of_head {c : Host.Cell} {m : Memory} (h : Memory.wf (c :: m) = true) {a : Nat} (ha : a < c.1) :
    Memory.readByte (c :: m) a = 0 := by
  obtain ⟨hp, -⟩ := (wf_iff _).1 h
  refine readByte_unlisted fun d hd => ?_
  rcases List.mem_cons.1 hd with rfl | hd
  · omega
  · have := (List.pairwise_cons.1 hp).1 d hd; omega

/-- Equal memories are equal data: two canonical memories that read alike are the same list. -/
theorem wf_ext {m m' : Memory} (h : m.wf = true) (h' : m'.wf = true) (heq : ∀ a, m.readByte a = m'.readByte a) :
    m = m' := by
  induction m generalizing m' with
  | nil =>
    cases m' with
    | nil => rfl
    | cons d m' =>
      have := heq d.1
      rw [readByte_cons, if_pos rfl, readByte_nil] at this
      exact absurd this.symm (((wf_iff _).1 h').2 d (by simp))
  | cons c m ih =>
    cases m' with
    | nil =>
      have := heq c.1
      rw [readByte_cons, if_pos rfl, readByte_nil] at this
      exact absurd this (((wf_iff _).1 h).2 c (by simp))
    | cons d m' =>
      obtain ⟨hp, hv⟩ := (wf_iff _).1 h
      obtain ⟨hp', hv'⟩ := (wf_iff _).1 h'
      have hcd : c.1 = d.1 := by
        rcases lt_trichotomy c.1 d.1 with hlt | he | hlt
        · have := heq c.1
          rw [readByte_of_head h' hlt, readByte_cons, if_pos rfl] at this
          exact absurd this (hv c (by simp))
        · exact he
        · have := heq d.1
          rw [readByte_of_head h hlt, readByte_cons, if_pos rfl] at this
          exact absurd this.symm (hv' d (by simp))
      have hv2 : c.2 = d.2 := by
        have := heq c.1
        rw [readByte_cons, if_pos rfl, readByte_cons, if_pos hcd.symm] at this
        exact this
      have htail : m = m' := by
        refine ih ((wf_iff _).2 ⟨(List.pairwise_cons.1 hp).2, fun e he => hv e (by simp [he])⟩)
          ((wf_iff _).2 ⟨(List.pairwise_cons.1 hp').2, fun e he => hv' e (by simp [he])⟩) fun a => ?_
        have := heq a
        rw [readByte_cons, readByte_cons] at this
        by_cases ha : c.1 = a
        · rw [readByte_unlisted fun e he => by have := (List.pairwise_cons.1 hp).1 e he; omega,
            readByte_unlisted fun e he => by have := (List.pairwise_cons.1 hp').1 e he; omega]
        · rwa [if_neg ha, if_neg (by omega)] at this
      rw [htail, Prod.ext hcd hv2]

/-! ## Byte strings -/

@[simp] theorem readBytes_length (m : Memory) (a n : Nat) : (m.readBytes a n).length = n := by
  induction n generalizing a with
  | zero => rfl
  | succ n ih => simp [Memory.readBytes, ih]

theorem readBytes_getElem (m : Memory) (a n i : Nat) (h : i < (m.readBytes a n).length) :
    (m.readBytes a n)[i] = m.readByte (a + i) := by
  induction n generalizing a i with
  | zero => simp [Memory.readBytes] at h
  | succ n ih =>
    cases i with
    | zero => simp [Memory.readBytes]
    | succ i =>
      simp only [Memory.readBytes, List.getElem_cons_succ]
      rw [ih, Nat.add_assoc, Nat.add_comm 1]

/-- Byte strings that read alike byte by byte are equal. -/
theorem readBytes_congr {m m' : Memory} {a n : Nat}
    (h : ∀ b, a ≤ b → b < a + n → m.readByte b = m'.readByte b) : m.readBytes a n = m'.readBytes a n := by
  refine List.ext_getElem (by simp) fun i hi _ => ?_
  rw [readBytes_length] at hi
  rw [readBytes_getElem, readBytes_getElem]
  exact h _ (by omega) (by omega)

/-- A byte after a byte string is written. -/
theorem readByte_writeBytes (m : Memory) (a : Nat) (bs : List Byte) (b : Nat) :
    (m.writeBytes a bs).readByte b = if a ≤ b then (bs[b - a]?).getD (m.readByte b) else m.readByte b := by
  induction bs generalizing m a with
  | nil => simp [Memory.writeBytes]
  | cons v bs ih =>
    rw [Memory.writeBytes, ih, readByte_writeByte]
    by_cases h1 : a + 1 ≤ b
    · obtain ⟨k, rfl⟩ : ∃ k, b = a + 1 + k := ⟨b - (a + 1), by omega⟩
      simp only [show a + 1 + k - (a + 1) = k by omega, show a + 1 + k - a = k + 1 by omega,
        show ¬ a + 1 + k = a by omega, h1, show a ≤ a + 1 + k by omega, if_true, if_false, List.getElem?_cons_succ]
    · rw [if_neg h1]
      by_cases h2 : b = a
      · subst h2; simp
      · rw [if_neg h2, if_neg (by omega)]

/-- A byte outside a written string is as before. -/
theorem readByte_writeBytes_outside {m : Memory} {a : Nat} {bs : List Byte} {b : Nat}
    (h : b < a ∨ a + bs.length ≤ b) : (m.writeBytes a bs).readByte b = m.readByte b := by
  rw [readByte_writeBytes]
  split
  · rw [List.getElem?_eq_none (by omega)]; rfl
  · rfl

/-- A written byte string reads back. -/
theorem readBytes_writeBytes (m : Memory) (a : Nat) (bs : List Byte) :
    (m.writeBytes a bs).readBytes a bs.length = bs := by
  refine List.ext_getElem (by simp) fun i _ hi => ?_
  rw [readBytes_getElem, readByte_writeBytes, if_pos (by omega), show a + i - a = i by omega,
    List.getElem?_eq_getElem hi]
  rfl

theorem wf_writeBytes {m : Memory} (h : m.wf = true) (a : Nat) (bs : List Byte) : (m.writeBytes a bs).wf = true := by
  induction bs generalizing m a with
  | nil => exact h
  | cons v bs ih => exact ih (wf_writeByte h a v) (a + 1)

theorem mem_writeBytes {m : Memory} {a : Nat} {bs : List Byte} {c : Host.Cell} (h : c ∈ m.writeBytes a bs) :
    (a ≤ c.1 ∧ c.1 < a + bs.length) ∨ c ∈ m := by
  induction bs generalizing m a with
  | nil => exact .inr h
  | cons v bs ih =>
    rw [Memory.writeBytes] at h
    rcases ih h with ⟨h1, h2⟩ | h
    · exact .inl ⟨by omega, by simp; omega⟩
    · rcases mem_writeByte h with h | h
      · exact .inl ⟨by omega, by simp; omega⟩
      · exact .inr h

/-- Writing back the old bytes restores a canonical memory. -/
theorem writeBytes_restore {m : Memory} (h : m.wf = true) (a : Nat) (bs : List Byte) :
    (m.writeBytes a bs).writeBytes a (m.readBytes a bs.length) = m := by
  refine wf_ext (wf_writeBytes (wf_writeBytes h a bs) a _) h fun b => ?_
  by_cases hb : a ≤ b ∧ b < a + bs.length
  · rw [readByte_writeBytes, if_pos hb.1, List.getElem?_eq_getElem (by simp; omega), Option.getD_some,
      readBytes_getElem, Nat.add_sub_cancel' hb.1]
  · rw [readByte_writeBytes_outside (by simp; omega), readByte_writeBytes_outside (by omega)]

/-! ## Byte order -/

@[simp] theorem bytesOf_length (sz : Size) (v : BitVec sz.bits) : (bytesOf sz v).length = sz.bytes := by
  cases sz <;> rfl

/-- The value of the bytes of a value is the value. -/
@[simp] theorem valueOf_bytesOf (sz : Size) (v : BitVec sz.bits) : valueOf sz (bytesOf sz v) = v := by
  cases sz with
  | B => rfl
  | W =>
    apply BitVec.eq_of_getLsbD_eq; intro i hi
    simp only [Size.bits] at hi v
    simp only [valueOf, bytesOf, List.getD_cons_zero, List.getD_cons_succ, BitVec.getLsbD_append,
      BitVec.getLsbD_extractLsb']
    by_cases h8 : i < 8
    · simp [h8]
    · simp [h8, show i - 8 < 8 by omega, show 8 + (i - 8) = i by omega]
  | L =>
    apply BitVec.eq_of_getLsbD_eq; intro i hi
    simp only [Size.bits] at hi v
    simp only [valueOf, bytesOf, List.getD_cons_zero, List.getD_cons_succ, BitVec.getLsbD_append,
      BitVec.getLsbD_extractLsb']
    by_cases h8 : i < 8
    · simp [h8]
    · by_cases h16 : i < 16
      · simp [h8, show i - 8 < 8 by omega, show 8 + (i - 8) = i by omega]
      · by_cases h24 : i < 24
        · simp [h8, show ¬ i - 8 < 8 by omega, show i - 8 - 8 < 8 by omega, show 16 + (i - 8 - 8) = i by omega]
        · simp [h8, show ¬ i - 8 < 8 by omega, show ¬ i - 8 - 8 < 8 by omega, show i - 8 - 8 - 8 < 8 by omega,
            show 24 + (i - 8 - 8 - 8) = i by omega]

end Sys2Proof.Machine
end

