-- ==== Sys2Proof/Laws/State.lean ====
section
/-! SUPPORT. One lemma per field per update of the state, so that no proof unfolds a record update. -/

namespace Sys2Proof.Machine

/-! ## `withReg` -/

@[simp] theorem withReg_pc (s : State) (r : Reg) (v : Word) : (s.withReg r v).pc = s.pc := by cases r <;> rfl
@[simp] theorem withReg_flags (s : State) (r : Reg) (v : Word) : (s.withReg r v).flags = s.flags := by cases r <;> rfl
@[simp] theorem withReg_status (s : State) (r : Reg) (v : Word) : (s.withReg r v).status = s.status := by cases r <;> rfl
@[simp] theorem withReg_reason (s : State) (r : Reg) (v : Word) : (s.withReg r v).reason = s.reason := by cases r <;> rfl
@[simp] theorem withReg_reachedBottom (s : State) (r : Reg) (v : Word) : (s.withReg r v).reachedBottom = s.reachedBottom := by cases r <;> rfl
@[simp] theorem withReg_curInterrupt (s : State) (r : Reg) (v : Word) : (s.withReg r v).curInterrupt = s.curInterrupt := by cases r <;> rfl
@[simp] theorem withReg_mem (s : State) (r : Reg) (v : Word) : (s.withReg r v).mem = s.mem := by cases r <;> rfl
@[simp] theorem withReg_callStack (s : State) (r : Reg) (v : Word) : (s.withReg r v).callStack = s.callStack := by cases r <;> rfl
@[simp] theorem withReg_history (s : State) (r : Reg) (v : Word) : (s.withReg r v).history = s.history := by cases r <;> rfl
@[simp] theorem withReg_openEntry (s : State) (r : Reg) (v : Word) : (s.withReg r v).openEntry = s.openEntry := by cases r <;> rfl
@[simp] theorem withReg_undone (s : State) (r : Reg) (v : Word) : (s.withReg r v).undone = s.undone := by cases r <;> rfl
@[simp] theorem withReg_answers (s : State) (r : Reg) (v : Word) : (s.withReg r v).answers = s.answers := by cases r <;> rfl
@[simp] theorem withReg_program (s : State) (r : Reg) (v : Word) : (s.withReg r v).program = s.program := by cases r <;> rfl
@[simp] theorem withReg_options (s : State) (r : Reg) (v : Word) : (s.withReg r v).options = s.options := by cases r <;> rfl

/-! ## `putReg` -/

@[simp] theorem putReg_pc (s : State) (r : Reg) (v : Word) (sz : Size) : (s.putReg r v sz).pc = s.pc := by cases r <;> rfl
@[simp] theorem putReg_flags (s : State) (r : Reg) (v : Word) (sz : Size) : (s.putReg r v sz).flags = s.flags := by cases r <;> rfl
@[simp] theorem putReg_status (s : State) (r : Reg) (v : Word) (sz : Size) : (s.putReg r v sz).status = s.status := by cases r <;> rfl
@[simp] theorem putReg_reason (s : State) (r : Reg) (v : Word) (sz : Size) : (s.putReg r v sz).reason = s.reason := by cases r <;> rfl
@[simp] theorem putReg_reachedBottom (s : State) (r : Reg) (v : Word) (sz : Size) : (s.putReg r v sz).reachedBottom = s.reachedBottom := by cases r <;> rfl
@[simp] theorem putReg_curInterrupt (s : State) (r : Reg) (v : Word) (sz : Size) : (s.putReg r v sz).curInterrupt = s.curInterrupt := by cases r <;> rfl
@[simp] theorem putReg_mem (s : State) (r : Reg) (v : Word) (sz : Size) : (s.putReg r v sz).mem = s.mem := by cases r <;> rfl
@[simp] theorem putReg_callStack (s : State) (r : Reg) (v : Word) (sz : Size) : (s.putReg r v sz).callStack = s.callStack := by cases r <;> rfl
@[simp] theorem putReg_history (s : State) (r : Reg) (v : Word) (sz : Size) : (s.putReg r v sz).history = s.history := by cases r <;> rfl
@[simp] theorem putReg_openEntry (s : State) (r : Reg) (v : Word) (sz : Size) : (s.putReg r v sz).openEntry = s.openEntry ++ [.writeRegister r (s.x r) sz] := by cases r <;> rfl
@[simp] theorem putReg_undone (s : State) (r : Reg) (v : Word) (sz : Size) : (s.putReg r v sz).undone = s.undone := by cases r <;> rfl
@[simp] theorem putReg_answers (s : State) (r : Reg) (v : Word) (sz : Size) : (s.putReg r v sz).answers = s.answers := by cases r <;> rfl
@[simp] theorem putReg_program (s : State) (r : Reg) (v : Word) (sz : Size) : (s.putReg r v sz).program = s.program := by cases r <;> rfl
@[simp] theorem putReg_options (s : State) (r : Reg) (v : Word) (sz : Size) : (s.putReg r v sz).options = s.options := by cases r <;> rfl

/-! ## `storeAt` -/

@[simp] theorem storeAt_d (s : State) (addr : Word) (sz : Size) (v : BitVec sz.bits) : (s.storeAt addr sz v).d = s.d := rfl
@[simp] theorem storeAt_a (s : State) (addr : Word) (sz : Size) (v : BitVec sz.bits) : (s.storeAt addr sz v).a = s.a := rfl
@[simp] theorem storeAt_pc (s : State) (addr : Word) (sz : Size) (v : BitVec sz.bits) : (s.storeAt addr sz v).pc = s.pc := rfl
@[simp] theorem storeAt_flags (s : State) (addr : Word) (sz : Size) (v : BitVec sz.bits) : (s.storeAt addr sz v).flags = s.flags := rfl
@[simp] theorem storeAt_status (s : State) (addr : Word) (sz : Size) (v : BitVec sz.bits) : (s.storeAt addr sz v).status = s.status := rfl
@[simp] theorem storeAt_reason (s : State) (addr : Word) (sz : Size) (v : BitVec sz.bits) : (s.storeAt addr sz v).reason = s.reason := rfl
@[simp] theorem storeAt_reachedBottom (s : State) (addr : Word) (sz : Size) (v : BitVec sz.bits) : (s.storeAt addr sz v).reachedBottom = s.reachedBottom := rfl
@[simp] theorem storeAt_curInterrupt (s : State) (addr : Word) (sz : Size) (v : BitVec sz.bits) : (s.storeAt addr sz v).curInterrupt = s.curInterrupt := rfl
@[simp] theorem storeAt_mem (s : State) (addr : Word) (sz : Size) (v : BitVec sz.bits) : (s.storeAt addr sz v).mem = s.mem.writeBytes addr.toNat (bytesOf sz v) := rfl
@[simp] theorem storeAt_callStack (s : State) (addr : Word) (sz : Size) (v : BitVec sz.bits) : (s.storeAt addr sz v).callStack = s.callStack := rfl
@[simp] theorem storeAt_history (s : State) (addr : Word) (sz : Size) (v : BitVec sz.bits) : (s.storeAt addr sz v).history = s.history := rfl
@[simp] theorem storeAt_openEntry (s : State) (addr : Word) (sz : Size) (v : BitVec sz.bits) : (s.storeAt addr sz v).openEntry = s.openEntry ++ [.writeMemory addr (s.mem.readBytes addr.toNat sz.bytes) sz] := rfl
@[simp] theorem storeAt_undone (s : State) (addr : Word) (sz : Size) (v : BitVec sz.bits) : (s.storeAt addr sz v).undone = s.undone := rfl
@[simp] theorem storeAt_answers (s : State) (addr : Word) (sz : Size) (v : BitVec sz.bits) : (s.storeAt addr sz v).answers = s.answers := rfl
@[simp] theorem storeAt_program (s : State) (addr : Word) (sz : Size) (v : BitVec sz.bits) : (s.storeAt addr sz v).program = s.program := rfl
@[simp] theorem storeAt_options (s : State) (addr : Word) (sz : Size) (v : BitVec sz.bits) : (s.storeAt addr sz v).options = s.options := rfl

@[simp] theorem storeAt_x (s : State) (addr : Word) (sz : Size) (v : BitVec sz.bits) (r : Reg) : (s.storeAt addr sz v).x r = s.x r := by cases r <;> rfl

/-! ## `putFlags` -/

@[simp] theorem putFlags_d (s : State) (f : Flags) : (s.putFlags f).d = s.d := rfl
@[simp] theorem putFlags_a (s : State) (f : Flags) : (s.putFlags f).a = s.a := rfl
@[simp] theorem putFlags_pc (s : State) (f : Flags) : (s.putFlags f).pc = s.pc := rfl
@[simp] theorem putFlags_flags (s : State) (f : Flags) : (s.putFlags f).flags = f := rfl
@[simp] theorem putFlags_status (s : State) (f : Flags) : (s.putFlags f).status = s.status := rfl
@[simp] theorem putFlags_reason (s : State) (f : Flags) : (s.putFlags f).reason = s.reason := rfl
@[simp] theorem putFlags_reachedBottom (s : State) (f : Flags) : (s.putFlags f).reachedBottom = s.reachedBottom := rfl
@[simp] theorem putFlags_curInterrupt (s : State) (f : Flags) : (s.putFlags f).curInterrupt = s.curInterrupt := rfl
@[simp] theorem putFlags_mem (s : State) (f : Flags) : (s.putFlags f).mem = s.mem := rfl
@[simp] theorem putFlags_callStack (s : State) (f : Flags) : (s.putFlags f).callStack = s.callStack := rfl
@[simp] theorem putFlags_history (s : State) (f : Flags) : (s.putFlags f).history = s.history := rfl
@[simp] theorem putFlags_openEntry (s : State) (f : Flags) : (s.putFlags f).openEntry = s.openEntry ++ [.writeFlags s.flags] := rfl
@[simp] theorem putFlags_undone (s : State) (f : Flags) : (s.putFlags f).undone = s.undone := rfl
@[simp] theorem putFlags_answers (s : State) (f : Flags) : (s.putFlags f).answers = s.answers := rfl
@[simp] theorem putFlags_program (s : State) (f : Flags) : (s.putFlags f).program = s.program := rfl
@[simp] theorem putFlags_options (s : State) (f : Flags) : (s.putFlags f).options = s.options := rfl

@[simp] theorem putFlags_x (s : State) (f : Flags) (r : Reg) : (s.putFlags f).x r = s.x r := by cases r <;> rfl

/-! ## `jump` -/

@[simp] theorem jump_d (s : State) (t : Word) : (s.jump t).d = s.d := rfl
@[simp] theorem jump_a (s : State) (t : Word) : (s.jump t).a = s.a := rfl
@[simp] theorem jump_pc (s : State) (t : Word) : (s.jump t).pc = t := rfl
@[simp] theorem jump_flags (s : State) (t : Word) : (s.jump t).flags = s.flags := rfl
@[simp] theorem jump_status (s : State) (t : Word) : (s.jump t).status = s.status := rfl
@[simp] theorem jump_reason (s : State) (t : Word) : (s.jump t).reason = s.reason := rfl
@[simp] theorem jump_reachedBottom (s : State) (t : Word) : (s.jump t).reachedBottom = s.reachedBottom := rfl
@[simp] theorem jump_curInterrupt (s : State) (t : Word) : (s.jump t).curInterrupt = s.curInterrupt := rfl
@[simp] theorem jump_mem (s : State) (t : Word) : (s.jump t).mem = s.mem := rfl
@[simp] theorem jump_callStack (s : State) (t : Word) : (s.jump t).callStack = s.callStack := rfl
@[simp] theorem jump_history (s : State) (t : Word) : (s.jump t).history = s.history := rfl
@[simp] theorem jump_openEntry (s : State) (t : Word) : (s.jump t).openEntry = s.openEntry ++ [.writePc s.pc] := rfl
@[simp] theorem jump_undone (s : State) (t : Word) : (s.jump t).undone = s.undone := rfl
@[simp] theorem jump_answers (s : State) (t : Word) : (s.jump t).answers = s.answers := rfl
@[simp] theorem jump_program (s : State) (t : Word) : (s.jump t).program = s.program := rfl
@[simp] theorem jump_options (s : State) (t : Word) : (s.jump t).options = s.options := rfl

@[simp] theorem jump_x (s : State) (t : Word) (r : Reg) : (s.jump t).x r = s.x r := by cases r <;> rfl

/-! ## `advance` -/

@[simp] theorem advance_d (s : State) : (s.advance).d = s.d := rfl
@[simp] theorem advance_a (s : State) : (s.advance).a = s.a := rfl
@[simp] theorem advance_pc (s : State) : (s.advance).pc = s.pc + 4 := rfl
@[simp] theorem advance_flags (s : State) : (s.advance).flags = s.flags := rfl
@[simp] theorem advance_status (s : State) : (s.advance).status = s.status := rfl
@[simp] theorem advance_reason (s : State) : (s.advance).reason = s.reason := rfl
@[simp] theorem advance_reachedBottom (s : State) : (s.advance).reachedBottom = s.reachedBottom := rfl
@[simp] theorem advance_curInterrupt (s : State) : (s.advance).curInterrupt = s.curInterrupt := rfl
@[simp] theorem advance_mem (s : State) : (s.advance).mem = s.mem := rfl
@[simp] theorem advance_callStack (s : State) : (s.advance).callStack = s.callStack := rfl
@[simp] theorem advance_history (s : State) : (s.advance).history = s.history := rfl
@[simp] theorem advance_openEntry (s : State) : (s.advance).openEntry = s.openEntry ++ [.writePc s.pc] := rfl
@[simp] theorem advance_undone (s : State) : (s.advance).undone = s.undone := rfl
@[simp] theorem advance_answers (s : State) : (s.advance).answers = s.answers := rfl
@[simp] theorem advance_program (s : State) : (s.advance).program = s.program := rfl
@[simp] theorem advance_options (s : State) : (s.advance).options = s.options := rfl

@[simp] theorem advance_x (s : State) (r : Reg) : (s.advance).x r = s.x r := by cases r <;> rfl

/-! ## `pushCall` -/

@[simp] theorem pushCall_d (s : State) (t sp : Word) : (s.pushCall t sp).d = s.d := rfl
@[simp] theorem pushCall_a (s : State) (t sp : Word) : (s.pushCall t sp).a = s.a := rfl
@[simp] theorem pushCall_pc (s : State) (t sp : Word) : (s.pushCall t sp).pc = s.pc := rfl
@[simp] theorem pushCall_flags (s : State) (t sp : Word) : (s.pushCall t sp).flags = s.flags := rfl
@[simp] theorem pushCall_status (s : State) (t sp : Word) : (s.pushCall t sp).status = s.status := rfl
@[simp] theorem pushCall_reason (s : State) (t sp : Word) : (s.pushCall t sp).reason = s.reason := rfl
@[simp] theorem pushCall_reachedBottom (s : State) (t sp : Word) : (s.pushCall t sp).reachedBottom = s.reachedBottom := rfl
@[simp] theorem pushCall_curInterrupt (s : State) (t sp : Word) : (s.pushCall t sp).curInterrupt = s.curInterrupt := rfl
@[simp] theorem pushCall_mem (s : State) (t sp : Word) : (s.pushCall t sp).mem = s.mem := rfl
@[simp] theorem pushCall_callStack (s : State) (t sp : Word) : (s.pushCall t sp).callStack = { label := s.program.labels.lookup t, sp := snapshotSp sp (s.x .sp) } :: s.callStack := rfl
@[simp] theorem pushCall_history (s : State) (t sp : Word) : (s.pushCall t sp).history = s.history := rfl
@[simp] theorem pushCall_openEntry (s : State) (t sp : Word) : (s.pushCall t sp).openEntry = s.openEntry := rfl
@[simp] theorem pushCall_undone (s : State) (t sp : Word) : (s.pushCall t sp).undone = s.undone := rfl
@[simp] theorem pushCall_answers (s : State) (t sp : Word) : (s.pushCall t sp).answers = s.answers := rfl
@[simp] theorem pushCall_program (s : State) (t sp : Word) : (s.pushCall t sp).program = s.program := rfl
@[simp] theorem pushCall_options (s : State) (t sp : Word) : (s.pushCall t sp).options = s.options := rfl

@[simp] theorem pushCall_x (s : State) (t sp : Word) (r : Reg) : (s.pushCall t sp).x r = s.x r := by cases r <;> rfl

/-! ## `popCall` -/

@[simp] theorem popCall_d (s : State) : (s.popCall).d = s.d := rfl
@[simp] theorem popCall_a (s : State) : (s.popCall).a = s.a := rfl
@[simp] theorem popCall_pc (s : State) : (s.popCall).pc = s.pc := rfl
@[simp] theorem popCall_flags (s : State) : (s.popCall).flags = s.flags := rfl
@[simp] theorem popCall_status (s : State) : (s.popCall).status = s.status := rfl
@[simp] theorem popCall_reason (s : State) : (s.popCall).reason = s.reason := rfl
@[simp] theorem popCall_reachedBottom (s : State) : (s.popCall).reachedBottom = s.reachedBottom := rfl
@[simp] theorem popCall_curInterrupt (s : State) : (s.popCall).curInterrupt = s.curInterrupt := rfl
@[simp] theorem popCall_mem (s : State) : (s.popCall).mem = s.mem := rfl
@[simp] theorem popCall_callStack (s : State) : (s.popCall).callStack = s.callStack.tail := rfl
@[simp] theorem popCall_history (s : State) : (s.popCall).history = s.history := rfl
@[simp] theorem popCall_openEntry (s : State) : (s.popCall).openEntry = s.openEntry := rfl
@[simp] theorem popCall_undone (s : State) : (s.popCall).undone = s.undone := rfl
@[simp] theorem popCall_answers (s : State) : (s.popCall).answers = s.answers := rfl
@[simp] theorem popCall_program (s : State) : (s.popCall).program = s.program := rfl
@[simp] theorem popCall_options (s : State) : (s.popCall).options = s.options := rfl

@[simp] theorem popCall_x (s : State) (r : Reg) : (s.popCall).x r = s.x r := by cases r <;> rfl

/-! ## `enterInterrupt` -/

@[simp] theorem enterInterrupt_d (s : State) (i : Interrupt) : (s.enterInterrupt i).d = s.d := rfl
@[simp] theorem enterInterrupt_a (s : State) (i : Interrupt) : (s.enterInterrupt i).a = s.a := rfl
@[simp] theorem enterInterrupt_pc (s : State) (i : Interrupt) : (s.enterInterrupt i).pc = s.pc := rfl
@[simp] theorem enterInterrupt_flags (s : State) (i : Interrupt) : (s.enterInterrupt i).flags = s.flags := rfl
@[simp] theorem enterInterrupt_status (s : State) (i : Interrupt) : (s.enterInterrupt i).status = .interrupt := rfl
@[simp] theorem enterInterrupt_reason (s : State) (i : Interrupt) : (s.enterInterrupt i).reason = s.reason := rfl
@[simp] theorem enterInterrupt_reachedBottom (s : State) (i : Interrupt) : (s.enterInterrupt i).reachedBottom = s.reachedBottom := rfl
@[simp] theorem enterInterrupt_curInterrupt (s : State) (i : Interrupt) : (s.enterInterrupt i).curInterrupt = some i := rfl
@[simp] theorem enterInterrupt_mem (s : State) (i : Interrupt) : (s.enterInterrupt i).mem = s.mem := rfl
@[simp] theorem enterInterrupt_callStack (s : State) (i : Interrupt) : (s.enterInterrupt i).callStack = s.callStack := rfl
@[simp] theorem enterInterrupt_history (s : State) (i : Interrupt) : (s.enterInterrupt i).history = s.history := rfl
@[simp] theorem enterInterrupt_openEntry (s : State) (i : Interrupt) : (s.enterInterrupt i).openEntry = s.openEntry := rfl
@[simp] theorem enterInterrupt_undone (s : State) (i : Interrupt) : (s.enterInterrupt i).undone = s.undone := rfl
@[simp] theorem enterInterrupt_answers (s : State) (i : Interrupt) : (s.enterInterrupt i).answers = s.answers := rfl
@[simp] theorem enterInterrupt_program (s : State) (i : Interrupt) : (s.enterInterrupt i).program = s.program := rfl
@[simp] theorem enterInterrupt_options (s : State) (i : Interrupt) : (s.enterInterrupt i).options = s.options := rfl

@[simp] theorem enterInterrupt_x (s : State) (i : Interrupt) (r : Reg) : (s.enterInterrupt i).x r = s.x r := by cases r <;> rfl

/-! ## Registers -/

@[simp] theorem withReg_x (s : State) (r r' : Reg) (v : Word) : (s.withReg r v).x r' = if r' = r then v else s.x r' := by
  cases r <;> cases r' <;> simp [State.withReg, State.x, Vector.getElem_set, Fin.ext_iff, eq_comm]

@[simp] theorem putReg_x (s : State) (r r' : Reg) (v : Word) (sz : Size) :
    (s.putReg r v sz).x r' = if r' = r then v else s.x r' := by
  have h : (s.putReg r v sz).x r' = (s.withReg r v).x r' := by cases r' <;> rfl
  rw [h, withReg_x]

/-! ## `takeFault` -/

@[simp] theorem takeFault_d (e : Fault) (s : State) : (takeFault e s).d = s.d := rfl
@[simp] theorem takeFault_a (e : Fault) (s : State) : (takeFault e s).a = s.a := rfl
@[simp] theorem takeFault_pc (e : Fault) (s : State) : (takeFault e s).pc = s.pc := rfl
@[simp] theorem takeFault_flags (e : Fault) (s : State) : (takeFault e s).flags = s.flags := rfl
@[simp] theorem takeFault_status (e : Fault) (s : State) : (takeFault e s).status = .terminatedWithException := rfl
@[simp] theorem takeFault_reason (e : Fault) (s : State) : (takeFault e s).reason = some e := rfl
@[simp] theorem takeFault_reachedBottom (e : Fault) (s : State) : (takeFault e s).reachedBottom = s.reachedBottom := rfl
@[simp] theorem takeFault_curInterrupt (e : Fault) (s : State) : (takeFault e s).curInterrupt = none := rfl
@[simp] theorem takeFault_mem (e : Fault) (s : State) : (takeFault e s).mem = s.mem := rfl
@[simp] theorem takeFault_callStack (e : Fault) (s : State) : (takeFault e s).callStack = s.callStack := rfl
@[simp] theorem takeFault_history (e : Fault) (s : State) : (takeFault e s).history = s.history := rfl
@[simp] theorem takeFault_openEntry (e : Fault) (s : State) : (takeFault e s).openEntry = s.openEntry := rfl
@[simp] theorem takeFault_undone (e : Fault) (s : State) : (takeFault e s).undone = s.undone := rfl
@[simp] theorem takeFault_answers (e : Fault) (s : State) : (takeFault e s).answers = s.answers := rfl
@[simp] theorem takeFault_program (e : Fault) (s : State) : (takeFault e s).program = s.program := rfl
@[simp] theorem takeFault_options (e : Fault) (s : State) : (takeFault e s).options = s.options := rfl

@[simp] theorem takeFault_x (e : Fault) (s : State) (r : Reg) : (takeFault e s).x r = s.x r := by cases r <;> rfl

/-! ## `endCheck` -/

@[simp] theorem endCheck_d (s : State) : (endCheck s).d = s.d := by unfold endCheck; split <;> rfl
@[simp] theorem endCheck_a (s : State) : (endCheck s).a = s.a := by unfold endCheck; split <;> rfl
@[simp] theorem endCheck_pc (s : State) : (endCheck s).pc = s.pc := by unfold endCheck; split <;> rfl
@[simp] theorem endCheck_flags (s : State) : (endCheck s).flags = s.flags := by unfold endCheck; split <;> rfl
@[simp] theorem endCheck_reason (s : State) : (endCheck s).reason = s.reason := by unfold endCheck; split <;> rfl
@[simp] theorem endCheck_curInterrupt (s : State) : (endCheck s).curInterrupt = s.curInterrupt := by unfold endCheck; split <;> rfl
@[simp] theorem endCheck_mem (s : State) : (endCheck s).mem = s.mem := by unfold endCheck; split <;> rfl
@[simp] theorem endCheck_callStack (s : State) : (endCheck s).callStack = s.callStack := by unfold endCheck; split <;> rfl
@[simp] theorem endCheck_history (s : State) : (endCheck s).history = s.history := by unfold endCheck; split <;> rfl
@[simp] theorem endCheck_openEntry (s : State) : (endCheck s).openEntry = s.openEntry := by unfold endCheck; split <;> rfl
@[simp] theorem endCheck_undone (s : State) : (endCheck s).undone = s.undone := by unfold endCheck; split <;> rfl
@[simp] theorem endCheck_answers (s : State) : (endCheck s).answers = s.answers := by unfold endCheck; split <;> rfl
@[simp] theorem endCheck_program (s : State) : (endCheck s).program = s.program := by unfold endCheck; split <;> rfl
@[simp] theorem endCheck_options (s : State) : (endCheck s).options = s.options := by unfold endCheck; split <;> rfl

@[simp] theorem endCheck_x (s : State) (r : Reg) : (endCheck s).x r = s.x r := by unfold endCheck; split <;> cases r <;> rfl

theorem endCheck_of_not_running {s : State} (h : s.status ≠ .running) : endCheck s = s := by
  simp [endCheck, h]

theorem endCheck_of_not_end {s : State} (h : s.pc.toNat ≠ instrEnd s.program) : endCheck s = s := by
  simp [endCheck, h]

theorem endCheck_of_end {s : State} (h : s.status = .running) (he : s.pc.toNat = instrEnd s.program) :
    endCheck s = { s with status := .terminated, reachedBottom := true } := by
  simp [endCheck, h, he]

/-! ## `closeEntry` -/

@[simp] theorem closeEntry_d (p : Word) (l : Nat) (s : State) : (closeEntry p l s).d = s.d := rfl
@[simp] theorem closeEntry_a (p : Word) (l : Nat) (s : State) : (closeEntry p l s).a = s.a := rfl
@[simp] theorem closeEntry_pc (p : Word) (l : Nat) (s : State) : (closeEntry p l s).pc = s.pc := rfl
@[simp] theorem closeEntry_flags (p : Word) (l : Nat) (s : State) : (closeEntry p l s).flags = s.flags := rfl
@[simp] theorem closeEntry_status (p : Word) (l : Nat) (s : State) : (closeEntry p l s).status = s.status := rfl
@[simp] theorem closeEntry_reason (p : Word) (l : Nat) (s : State) : (closeEntry p l s).reason = s.reason := rfl
@[simp] theorem closeEntry_reachedBottom (p : Word) (l : Nat) (s : State) : (closeEntry p l s).reachedBottom = s.reachedBottom := rfl
@[simp] theorem closeEntry_curInterrupt (p : Word) (l : Nat) (s : State) : (closeEntry p l s).curInterrupt = s.curInterrupt := rfl
@[simp] theorem closeEntry_mem (p : Word) (l : Nat) (s : State) : (closeEntry p l s).mem = s.mem := rfl
@[simp] theorem closeEntry_callStack (p : Word) (l : Nat) (s : State) : (closeEntry p l s).callStack = s.callStack := rfl
@[simp] theorem closeEntry_openEntry (p : Word) (l : Nat) (s : State) : (closeEntry p l s).openEntry = [] := rfl
@[simp] theorem closeEntry_undone (p : Word) (l : Nat) (s : State) : (closeEntry p l s).undone = s.undone := rfl
@[simp] theorem closeEntry_answers (p : Word) (l : Nat) (s : State) : (closeEntry p l s).answers = s.answers := rfl
@[simp] theorem closeEntry_program (p : Word) (l : Nat) (s : State) : (closeEntry p l s).program = s.program := rfl
@[simp] theorem closeEntry_options (p : Word) (l : Nat) (s : State) : (closeEntry p l s).options = s.options := rfl

@[simp] theorem closeEntry_x (p : Word) (l : Nat) (s : State) (r : Reg) : (closeEntry p l s).x r = s.x r := by
  cases r <;> rfl

end Sys2Proof.Machine
end

