-- ==== Sys2Proof/Laws/Ops.lean ====
section
/-! SUPPORT. What each shared operation over memory, registers and the stack can do, said once: when it answers, what it
answers; which stop it answers otherwise. -/

namespace Sys2Proof.Machine

/-! ## Sequencing -/

@[simp] theorem bind_eq_ok {α β : Type} {x : Res α} {f : α → Res β} {b : β} :
    x >>= f = .ok b ↔ ∃ a, x = .ok a ∧ f a = .ok b := by
  cases x with
  | error e => simp [bind, Except.bind]
  | ok a => simp [bind, Except.bind]

/-- A computation that ends in no refusal. -/
def NeverRefuses {α : Type} (x : Res α) : Prop := ∀ r, x ≠ .error (.refuse r)

theorem neverRefuses_ok {α : Type} (a : α) : NeverRefuses (.ok a : Res α) := fun _ => nofun

theorem neverRefuses_raise {α : Type} (f : Fault) : NeverRefuses (.error (.raise f) : Res α) := fun _ => nofun

theorem neverRefuses_bind {α β : Type} {x : Res α} {f : α → Res β} (hx : NeverRefuses x)
    (hf : ∀ a, x = .ok a → NeverRefuses (f a)) : NeverRefuses (x >>= f) := by
  intro r h
  cases x with
  | error e => exact hx r (by simpa [bind, Except.bind] using h)
  | ok a => exact hf a rfl r (by simpa [bind, Except.bind] using h)

/-! ## Access checks -/

theorem checkAccess_eq_ok {addr : Word} {sz : Size} {s : State} {u : Unit} :
    checkAccess addr sz s = .ok u ↔ s.accessible addr sz := by
  unfold checkAccess State.accessible
  cases s.inBounds addr sz.bytes <;> cases s.misalignedAt addr sz <;> simp

theorem checkAccess_error {addr : Word} {sz : Size} {s : State} {e : Stop} (h : checkAccess addr sz s = .error e) :
    (s.inBounds addr sz.bytes = false ∧ e = .raise .addressOutOfBounds) ∨
      (s.inBounds addr sz.bytes = true ∧ s.misalignedAt addr sz = true ∧ e = .raise .misalignedAccess) := by
  unfold checkAccess at h
  cases hb : s.inBounds addr sz.bytes <;> cases hm : s.misalignedAt addr sz <;> simp_all

theorem neverRefuses_checkAccess (addr : Word) (sz : Size) (s : State) : NeverRefuses (checkAccess addr sz s) := by
  intro r h
  rcases checkAccess_error h with ⟨-, h⟩ | ⟨-, -, h⟩ <;> cases h

/-- What an in-bounds access of at least one byte says of its addresses. -/
theorem inBounds_le {s : State} {addr : Word} {n : Nat} (h : s.inBounds addr n = true) (hn : n ≠ 0) :
    addr.toNat + n ≤ s.options.memSize := by
  simpa [State.inBounds, hn] using h

/-! ## Memory -/

theorem memRead_eq_ok {addr : Word} {sz : Size} {s : State} {v : BitVec sz.bits} :
    memRead addr sz s = .ok v ↔ s.accessible addr sz ∧ v = valueOf sz (s.mem.readBytes addr.toNat sz.bytes) := by
  unfold memRead
  rw [bind_eq_ok]
  constructor
  · rintro ⟨u, hc, hv⟩
    exact ⟨checkAccess_eq_ok.1 hc, by cases hv; rfl⟩
  · rintro ⟨ha, rfl⟩
    exact ⟨(), checkAccess_eq_ok.2 ha, rfl⟩

theorem memWrite_eq_ok {addr : Word} {sz : Size} {v : BitVec sz.bits} {s t : State} :
    memWrite addr sz v s = .ok t ↔ s.accessible addr sz ∧ t = s.storeAt addr sz v := by
  unfold memWrite
  rw [bind_eq_ok]
  constructor
  · rintro ⟨u, hc, hv⟩
    exact ⟨checkAccess_eq_ok.1 hc, by cases hv; rfl⟩
  · rintro ⟨ha, rfl⟩
    exact ⟨(), checkAccess_eq_ok.2 ha, rfl⟩

theorem neverRefuses_memRead (addr : Word) (sz : Size) (s : State) : NeverRefuses (memRead addr sz s) :=
  neverRefuses_bind (neverRefuses_checkAccess addr sz s) fun _ _ => neverRefuses_ok _

theorem neverRefuses_memWrite (addr : Word) (sz : Size) (v : BitVec sz.bits) (s : State) :
    NeverRefuses (memWrite addr sz v s) :=
  neverRefuses_bind (neverRefuses_checkAccess addr sz s) fun _ _ => neverRefuses_ok _

theorem memReadBytes_eq_ok {addr : Word} {n : Nat} {s : State} {bs : List Byte} :
    memReadBytes addr n s = .ok bs ↔ s.inBounds addr n = true ∧ bs = s.mem.readBytes addr.toNat n := by
  unfold memReadBytes
  cases s.inBounds addr n <;> simp [eq_comm]

theorem neverRefuses_memReadBytes (addr : Word) (n : Nat) (s : State) : NeverRefuses (memReadBytes addr n s) := by
  unfold memReadBytes
  split
  · exact neverRefuses_ok _
  · exact neverRefuses_raise _

/-- The state after a byte string is stored, the mutation recorded (R66). -/
def State.storeBytes (s : State) (addr : Word) (bs : List Byte) : State :=
  { s with
    mem := s.mem.writeBytes addr.toNat bs
    openEntry := s.openEntry ++ [.writeMemoryBytes addr (s.mem.readBytes addr.toNat bs.length)] }

theorem memWriteBytes_eq_ok {addr : Word} {bs : List Byte} {s t : State} :
    memWriteBytes addr bs s = .ok t ↔ s.inBounds addr bs.length = true ∧ t = s.storeBytes addr bs := by
  unfold memWriteBytes State.storeBytes
  cases s.inBounds addr bs.length <;> simp [eq_comm]

theorem memWriteBytes_error {addr : Word} {bs : List Byte} {s : State} {e : Stop}
    (h : memWriteBytes addr bs s = .error e) : s.inBounds addr bs.length = false ∧ e = .raise .addressOutOfBounds := by
  unfold memWriteBytes at h
  cases hb : s.inBounds addr bs.length <;> simp_all

/-- A stored value reads back. -/
theorem readBytes_storeAt (s : State) (addr : Word) (sz : Size) (v : BitVec sz.bits) :
    (s.storeAt addr sz v).mem.readBytes addr.toNat sz.bytes = bytesOf sz v := by
  have := readBytes_writeBytes s.mem addr.toNat (bytesOf sz v)
  rwa [bytesOf_length] at this

/-- A byte outside a store is as before. -/
theorem readByte_storeAt {s : State} {addr : Word} {sz : Size} {v : BitVec sz.bits} {b : Nat}
    (h : b < addr.toNat ∨ addr.toNat + sz.bytes ≤ b) : (s.storeAt addr sz v).mem.readByte b = s.mem.readByte b := by
  rw [storeAt_mem]
  exact readByte_writeBytes_outside (by simpa using h)

/-! ## Registers -/

theorem regRead_eq_ok {r : Reg} {sz : Size} {s : State} {v : BitVec sz.bits} :
    regRead r sz s = .ok v ↔ byteOnAddr r sz = false ∧ v = (s.x r).setWidth sz.bits := by
  unfold regRead
  cases byteOnAddr r sz <;> simp [eq_comm]

theorem regWrite_eq_ok {r : Reg} {sz : Size} {v : BitVec sz.bits} {s t : State} :
    regWrite r sz v s = .ok t ↔ byteOnAddr r sz = false ∧ t = s.putReg r (mergeReg r sz (s.x r) v) sz := by
  unfold regWrite
  cases byteOnAddr r sz <;> simp [eq_comm]

theorem neverRefuses_regRead (r : Reg) (sz : Size) (s : State) : NeverRefuses (regRead r sz s) := by
  unfold regRead
  split
  · exact neverRefuses_raise _
  · exact neverRefuses_ok _

theorem neverRefuses_regWrite (r : Reg) (sz : Size) (v : BitVec sz.bits) (s : State) :
    NeverRefuses (regWrite r sz v s) := by
  unfold regWrite
  split
  · exact neverRefuses_raise _
  · exact neverRefuses_ok _

@[simp] theorem mergeReg_L (r : Reg) (old v : Word) : mergeReg r .L old v = v := by cases r <;> rfl

/-! ## Stack -/

theorem push32_eq_ok {v : Word} {s t : State} :
    push32 v s = .ok t ↔ s.accessible (s.x .sp - 4) .L ∧
      t = (s.putReg .sp (s.x .sp - 4) .L).storeAt (s.x .sp - 4) .L v := by
  unfold push32
  rw [memWrite_eq_ok]
  rfl

theorem pop32_eq_ok {s : State} {p : Word × State} :
    pop32 s = .ok p ↔ s.accessible (s.x .sp) .L ∧
      p = (valueOf .L (s.mem.readBytes (s.x .sp).toNat 4), s.putReg .sp (s.x .sp + 4) .L) := by
  unfold pop32
  rw [bind_eq_ok]
  constructor
  · rintro ⟨v, hv, hp⟩
    obtain ⟨ha, rfl⟩ := memRead_eq_ok.1 hv
    exact ⟨ha, by cases hp; rfl⟩
  · rintro ⟨ha, rfl⟩
    exact ⟨_, memRead_eq_ok.2 ⟨ha, rfl⟩, rfl⟩

theorem neverRefuses_push32 (v : Word) (s : State) : NeverRefuses (push32 v s) := neverRefuses_memWrite _ _ _ _

theorem neverRefuses_pop32 (s : State) : NeverRefuses (pop32 s) :=
  neverRefuses_bind (neverRefuses_memRead _ _ _) fun _ _ => neverRefuses_ok _

/-! ## The end of a meaning -/

/-- A meaning on a form that runs answers the state its pseudocode computes. -/
theorem runForm_ok {sh : Shape} {body : State → Res State} {s t : State} (hsh : sh.admitted = true)
    (h : body s = .ok t) : runForm sh body s = .next t := by
  simp [runForm, shapeRuns, hsh, h, settle]

/-- A meaning on a form that runs takes the fault its pseudocode raises, from the state before. -/
theorem runForm_raise {sh : Shape} {body : State → Res State} {s : State} {f : Fault} (hsh : shapeRuns sh = true)
    (h : body s = .error (.raise f)) : runForm sh body s = .next (takeFault f s) := by
  simp [runForm, hsh, h, settle]

/-- Everything a meaning can do. -/
theorem runForm_cases (sh : Shape) (body : State → Res State) (s : State) :
    (shapeRuns sh = true ∧ ∃ t, body s = .ok t ∧ runForm sh body s = .next t) ∨
      (shapeRuns sh = true ∧ ∃ f, body s = .error (.raise f) ∧ runForm sh body s = .next (takeFault f s)) ∨
      (∃ r, runForm sh body s = .refused r ∧ (shapeRuns sh = false ∨ body s = .error (.refuse r))) := by
  unfold runForm
  cases hsh : shapeRuns sh with
  | false => exact .inr (.inr ⟨_, rfl, .inl rfl⟩)
  | true =>
    match hb : body s with
    | .ok t => exact .inl ⟨rfl, t, rfl, rfl⟩
    | .error (.raise f) => exact .inr (.inl ⟨rfl, f, rfl, rfl⟩)
    | .error (.refuse r) => exact .inr (.inr ⟨r, rfl, .inr rfl⟩)

end Sys2Proof.Machine
end

