-- ==== Sys2Proof/Laws/Operands.lean ====
section
/-! SUPPORT. What resolving an operand and accessing a location can do: the value, the location, the registers stepped;
and that an admitted operand is never refused. -/

namespace Sys2Proof.Machine

/-! ## Resolving -/

/-- The state an operand leaves when it is resolved differs only in the registers it steps. -/
theorem resolve_regs {op : Operand} {sz : Size} {s u : State} {l : Loc} (h : resolve op sz s = .ok (l, u)) {r : Reg}
    (hr : r ∉ op.steps) : u.x r = s.x r := by
  unfold resolve at h
  split at h <;> simp only [Except.ok.injEq, Prod.mk.injEq, reduceCtorEq] at h
  all_goals obtain ⟨-, rfl⟩ := h
  all_goals first | rfl | (rw [putReg_x, if_neg]; simpa [Operand.steps] using hr)

/-- Resolving changes a register and the open history entry, nothing else. -/
theorem resolve_state {op : Operand} {sz : Size} {s u : State} {l : Loc} (h : resolve op sz s = .ok (l, u)) :
    u = s ∨ ∃ n v, op.steps = [.addr n] ∧ u = s.putReg (.addr n) v .L := by
  unfold resolve at h
  split at h <;> simp only [Except.ok.injEq, Prod.mk.injEq, reduceCtorEq] at h
  all_goals obtain ⟨-, rfl⟩ := h
  all_goals first | exact .inl rfl | exact .inr ⟨_, _, rfl, rfl⟩

/-- Resolving leaves memory, flags, `pc` and the call stack, and all that `OnlyChanges` names. -/
theorem resolve_onlyChanges {op : Operand} {sz : Size} {s u : State} {l : Loc} (h : resolve op sz s = .ok (l, u)) :
    OnlyChanges s u op.steps noByte ∧ u.mem = s.mem ∧ u.flags = s.flags ∧ u.pc = s.pc ∧ u.callStack = s.callStack := by
  have hr := fun r hr => resolve_regs h (r := r) hr
  rcases resolve_state h with rfl | ⟨n, v, -, rfl⟩
  · exact ⟨⟨hr, fun _ _ => rfl, rfl, rfl, rfl, rfl, rfl, rfl, rfl, rfl, rfl⟩, rfl, rfl, rfl, rfl⟩
  · exact ⟨⟨hr, fun _ _ => by simp, by simp, by simp, by simp, by simp, by simp, by simp, by simp, by simp, by simp⟩,
      by simp, by simp, by simp, by simp⟩

/-- Only an immediate operand resolves to an immediate. -/
theorem resolve_imm {op : Operand} {sz : Size} {s u : State} {v : Word} (h : resolve op sz s = .ok (.imm v, u)) :
    op = .immediate v := by
  unfold resolve at h
  split at h <;> simp_all

/-- Only a register operand resolves to a register. -/
theorem resolve_reg {op : Operand} {sz : Size} {s u : State} {r : Reg} (h : resolve op sz s = .ok (.reg r, u)) :
    op = .register r ∧ u = s := by
  unfold resolve at h
  split at h <;> simp_all

/-- Every operand but a branch target resolves. -/
theorem resolve_answers {op : Operand} (h : op.isTarget = false) (sz : Size) (s : State) :
    ∃ p, resolve op sz s = .ok p := by
  unfold resolve
  split <;> first | exact ⟨_, rfl⟩ | simp [Operand.isTarget, Operand.mode] at h

/-! ## Locations -/

/-- What reading a location answers. -/
theorem readLoc_mem_eq_ok {addr : Word} {sz : Size} {s : State} {v : BitVec sz.bits} :
    readLoc (.mem addr) sz s = .ok v ↔ s.accessible addr sz ∧ v = valueOf sz (s.mem.readBytes addr.toNat sz.bytes) :=
  memRead_eq_ok

/-- A location that reads, and is no immediate, can be written. -/
theorem writable_of_readLoc {l : Loc} {sz : Size} {s : State} {v : BitVec sz.bits} (h : readLoc l sz s = .ok v)
    (hl : ∀ w, l ≠ .imm w) : l.writable sz s := by
  cases l with
  | imm w => exact absurd rfl (hl w)
  | reg r => exact (regRead_eq_ok.1 h).1
  | mem addr => exact (memRead_eq_ok.1 h).1

/-- The state after a location is written. -/
def State.putLoc (s : State) (l : Loc) (sz : Size) (v : BitVec sz.bits) : State :=
  match l with
  | .imm _ => s
  | .reg r => s.putReg r (mergeReg r sz (s.x r) v) sz
  | .mem addr => s.storeAt addr sz v

theorem writeLoc_eq_ok {l : Loc} {sz : Size} {v : BitVec sz.bits} {s t : State} :
    writeLoc l sz v s = .ok t ↔ l.writable sz s ∧ t = s.putLoc l sz v := by
  cases l with
  | imm w => simp [writeLoc, Loc.writable]
  | reg r => exact regWrite_eq_ok
  | mem addr => exact memWrite_eq_ok

@[simp] theorem putLoc_flags (s : State) (l : Loc) (sz : Size) (v : BitVec sz.bits) : (s.putLoc l sz v).flags = s.flags := by
  cases l <;> simp [State.putLoc]

@[simp] theorem putLoc_pc (s : State) (l : Loc) (sz : Size) (v : BitVec sz.bits) : (s.putLoc l sz v).pc = s.pc := by
  cases l <;> simp [State.putLoc]

@[simp] theorem putLoc_callStack (s : State) (l : Loc) (sz : Size) (v : BitVec sz.bits) :
    (s.putLoc l sz v).callStack = s.callStack := by
  cases l <;> simp [State.putLoc]

/-- A written location holds the value. -/
theorem putLoc_holds {l : Loc} {sz : Size} {s : State} (h : l.writable sz s) (v : BitVec sz.bits) :
    l.holds sz v s (s.putLoc l sz v) := by
  cases l with
  | imm w => exact h
  | reg r => simp [Loc.holds, State.putLoc]
  | mem addr => exact readBytes_storeAt s addr sz v

/-- Writing a location changes its register or its bytes, nothing else. -/
theorem putLoc_onlyChanges (s : State) (l : Loc) (sz : Size) (v : BitVec sz.bits) :
    OnlyChanges s (s.putLoc l sz v) l.regs (l.covers sz) := by
  cases l with
  | imm w => exact ⟨fun _ _ => rfl, fun _ _ => rfl, rfl, rfl, rfl, rfl, rfl, rfl, rfl, rfl, rfl⟩
  | reg r =>
    refine ⟨fun r' hr => ?_, fun b _ => ?_, ?_, ?_, ?_, ?_, ?_, ?_, ?_, ?_, ?_⟩ <;> simp [State.putLoc]
    intro h; subst h; simp [Loc.regs] at hr
  | mem addr =>
    refine ⟨fun r' hr => ?_, fun b hb => ?_, ?_, ?_, ?_, ?_, ?_, ?_, ?_, ?_, ?_⟩ <;> simp only [State.putLoc, storeAt_x,
      storeAt_status, storeAt_reason, storeAt_reachedBottom, storeAt_curInterrupt, storeAt_history, storeAt_undone,
      storeAt_answers, storeAt_program, storeAt_options]
    refine readByte_storeAt ?_
    simp only [Loc.covers, within, not_and_or, not_le, not_lt] at hb
    exact hb

theorem readLoc_congr_flags {l : Loc} {sz : Size} {s : State} {f : Flags} :
    readLoc l sz (s.putFlags f) = readLoc l sz s := by
  cases l with
  | imm w => rfl
  | reg r => cases r <;> rfl
  | mem addr => rfl

/-! ## Read-modify-write and sources -/

/-- What reading a source answers: the location it resolved to, its value, and the state after. -/
theorem readSource_eq_ok {op : Operand} {sz : Size} {s : State} {p : BitVec sz.bits × State} :
    readSource op sz s = .ok p ↔ ∃ l, resolve op sz s = .ok (l, p.2) ∧ readLoc l sz p.2 = .ok p.1 := by
  unfold readSource
  simp only [bind_eq_ok, Prod.exists, Except.ok.injEq]
  constructor
  · rintro ⟨l, u, hl, v, hv, rfl⟩; exact ⟨l, hl, hv⟩
  · rintro ⟨l, hl, hv⟩; exact ⟨l, p.2, hl, p.1, hv, rfl⟩

theorem writeDest_eq_ok {op : Operand} {sz : Size} {v : BitVec sz.bits} {s t : State} :
    writeDest op sz v s = .ok t ↔ ∃ l u, resolve op sz s = .ok (l, u) ∧ l.writable sz u ∧ t = u.putLoc l sz v := by
  unfold writeDest
  simp only [bind_eq_ok, Prod.exists, writeLoc_eq_ok]

theorem modifyDest_eq_ok {op : Operand} {sz : Size} {f : BitVec sz.bits → Flags → Computed sz.bits} {s t : State} :
    modifyDest op sz f s = .ok t ↔ ∃ l u v, resolve op sz s = .ok (l, u) ∧ readLoc l sz u = .ok v ∧
      l.writable sz u ∧ t = (u.putLoc l sz (f v u.flags).value).putFlags (f v u.flags).flags := by
  unfold modifyDest
  simp only [bind_eq_ok, Prod.exists, writeLoc_eq_ok, Except.ok.injEq]
  constructor
  · rintro ⟨l, u, hl, v, hv, w, ⟨hw, rfl⟩, rfl⟩; exact ⟨l, u, v, hl, hv, hw, rfl⟩
  · rintro ⟨l, u, v, hl, hv, hw, rfl⟩; exact ⟨l, u, hl, v, hv, _, ⟨hw, rfl⟩, rfl⟩

/-! ## No refusal of an admitted operand -/

theorem neverRefuses_resolve {op : Operand} (h : op.isTarget = false) (sz : Size) (s : State) :
    NeverRefuses (resolve op sz s) := by
  obtain ⟨p, hp⟩ := resolve_answers h sz s
  rw [hp]; exact neverRefuses_ok p

theorem neverRefuses_readLoc (l : Loc) (sz : Size) (s : State) : NeverRefuses (readLoc l sz s) := by
  cases l with
  | imm v => exact neverRefuses_ok _
  | reg r => exact neverRefuses_regRead r sz s
  | mem addr => exact neverRefuses_memRead addr sz s

theorem neverRefuses_writeLoc {l : Loc} (h : ∀ w, l ≠ .imm w) (sz : Size) (v : BitVec sz.bits) (s : State) :
    NeverRefuses (writeLoc l sz v s) := by
  cases l with
  | imm w => exact absurd rfl (h w)
  | reg r => exact neverRefuses_regWrite r sz v s
  | mem addr => exact neverRefuses_memWrite addr sz v s

theorem resolve_not_imm {op : Operand} (h : op.isImm = false) {sz : Size} {s u : State} {l : Loc}
    (hl : resolve op sz s = .ok (l, u)) (w : Word) : l ≠ .imm w := by
  rintro rfl
  rw [resolve_imm hl] at h
  simp [Operand.isImm, Operand.mode] at h

theorem neverRefuses_readSource {op : Operand} (h : op.isTarget = false) (sz : Size) (s : State) :
    NeverRefuses (readSource op sz s) :=
  neverRefuses_bind (neverRefuses_resolve h sz s) fun _ _ =>
    neverRefuses_bind (neverRefuses_readLoc _ _ _) fun _ _ => neverRefuses_ok _

theorem neverRefuses_writeDest {op : Operand} (h : op.isTarget = false) (hi : op.isImm = false) (sz : Size)
    (v : BitVec sz.bits) (s : State) : NeverRefuses (writeDest op sz v s) :=
  neverRefuses_bind (neverRefuses_resolve h sz s) fun p hp =>
    neverRefuses_writeLoc (resolve_not_imm hi (u := p.2) hp) _ _ _

theorem neverRefuses_modifyDest {op : Operand} (h : op.isTarget = false) (hi : op.isImm = false) (sz : Size)
    (f : BitVec sz.bits → Flags → Computed sz.bits) (s : State) : NeverRefuses (modifyDest op sz f s) :=
  neverRefuses_bind (neverRefuses_resolve h sz s) fun p hp =>
    neverRefuses_bind (neverRefuses_readLoc _ _ _) fun _ _ =>
      neverRefuses_bind (neverRefuses_writeLoc (resolve_not_imm hi (u := p.2) hp) _ _ _) fun _ _ => neverRefuses_ok _

end Sys2Proof.Machine
end

