-- ==== Sys2Proof/Laws/Bodies.lean ====
section
/-! SUPPORT. The pseudocode of each instruction, named once, so that a law about all of them is one case split. -/

namespace Sys2Proof.Machine

/-- The pseudocode `exec` runs for an instruction. -/
def bodyOf : Instr → State → Res State
  | .moveB src dst => moveBody .B src dst
  | .moveW src dst => moveBody .W src dst
  | .moveL src dst => moveBody .L src dst
  | .moveqL src dst => moveqBody src dst
  | .addB src dst => arithBody .B addCompute src dst
  | .addW src dst => arithBody .W addCompute src dst
  | .addL src dst => arithBody .L addCompute src dst
  | .addqB src dst => arithBody .B addCompute src dst
  | .addqW src dst => arithBody .W addCompute src dst
  | .addqL src dst => arithBody .L addCompute src dst
  | .addaW src dst => addrArithBody .W (fun a b => a + b) src dst
  | .addaL src dst => addrArithBody .L (fun a b => a + b) src dst
  | .subB src dst => arithBody .B subCompute src dst
  | .subW src dst => arithBody .W subCompute src dst
  | .subL src dst => arithBody .L subCompute src dst
  | .subqB src dst => arithBody .B subCompute src dst
  | .subqW src dst => arithBody .W subCompute src dst
  | .subqL src dst => arithBody .L subCompute src dst
  | .subaW src dst => addrArithBody .W (fun a b => a - b) src dst
  | .subaL src dst => addrArithBody .L (fun a b => a - b) src dst
  | .cmpB src dst => cmpBody .B src dst
  | .cmpW src dst => cmpBody .W src dst
  | .cmpL src dst => cmpBody .L src dst
  | .tstB dst => tstBody .B dst
  | .tstW dst => tstBody .W dst
  | .tstL dst => tstBody .L dst
  | .mulsW src dst => mulDivBody mulsResult src dst
  | .muluW src dst => mulDivBody muluResult src dst
  | .divsW src dst => mulDivBody divsResult src dst
  | .divuW src dst => mulDivBody divuResult src dst
  | .andB src dst => logicBody .B (fun a b => a &&& b) src dst
  | .andW src dst => logicBody .W (fun a b => a &&& b) src dst
  | .andL src dst => logicBody .L (fun a b => a &&& b) src dst
  | .orB src dst => logicBody .B (fun a b => a ||| b) src dst
  | .orW src dst => logicBody .W (fun a b => a ||| b) src dst
  | .orL src dst => logicBody .L (fun a b => a ||| b) src dst
  | .eorB src dst => logicBody .B (fun a b => a ^^^ b) src dst
  | .eorW src dst => logicBody .W (fun a b => a ^^^ b) src dst
  | .eorL src dst => logicBody .L (fun a b => a ^^^ b) src dst
  | .notB dst => notBody .B dst
  | .notW dst => notBody .W dst
  | .notL dst => notBody .L dst
  | .aslB args => shiftBody .asl .B args
  | .aslW args => shiftBody .asl .W args
  | .aslL args => shiftBody .asl .L args
  | .asrB args => shiftBody .asr .B args
  | .asrW args => shiftBody .asr .W args
  | .asrL args => shiftBody .asr .L args
  | .lslB args => shiftBody .lsl .B args
  | .lslW args => shiftBody .lsl .W args
  | .lslL args => shiftBody .lsl .L args
  | .lsrB args => shiftBody .lsr .B args
  | .lsrW args => shiftBody .lsr .W args
  | .lsrL args => shiftBody .lsr .L args
  | .rolB args => shiftBody .rol .B args
  | .rolW args => shiftBody .rol .W args
  | .rolL args => shiftBody .rol .L args
  | .rorB args => shiftBody .ror .B args
  | .rorW args => shiftBody .ror .W args
  | .rorL args => shiftBody .ror .L args
  | .negB dst => negBody .B dst
  | .negW dst => negBody .W dst
  | .negL dst => negBody .L dst
  | .extW dst => extBody .W dst
  | .extL dst => extBody .L dst
  | .swapW dst => swapBody dst
  | .btstL bitnum dst => bitBody .tst .L bitnum dst
  | .btstB bitnum dst => bitBody .tst .B bitnum dst
  | .bclrL bitnum dst => bitBody .clr .L bitnum dst
  | .bclrB bitnum dst => bitBody .clr .B bitnum dst
  | .bsetL bitnum dst => bitBody .set .L bitnum dst
  | .bsetB bitnum dst => bitBody .set .B bitnum dst
  | .bchgL bitnum dst => bitBody .chg .L bitnum dst
  | .bchgB bitnum dst => bitBody .chg .B bitnum dst
  | .bt target => branchBody .t target
  | .bf target => branchBody .f target
  | .bhi target => branchBody .hi target
  | .bls target => branchBody .ls target
  | .bcc target => branchBody .cc target
  | .bcs target => branchBody .cs target
  | .bne target => branchBody .ne target
  | .beq target => branchBody .eq target
  | .bvc target => branchBody .vc target
  | .bvs target => branchBody .vs target
  | .bpl target => branchBody .pl target
  | .bmi target => branchBody .mi target
  | .bge target => branchBody .ge target
  | .blt target => branchBody .lt target
  | .bgt target => branchBody .gt target
  | .ble target => branchBody .le target
  | .bra target => braBody target
  | .bsr target => callBody (fun _ => targetOf target)
  | .jsr target => callBody (effAddr target)
  | .rts => rtsBody
  | .dbtW counter target => decBranchBody .t counter target
  | .dbfW counter target => decBranchBody .f counter target
  | .dbhiW counter target => decBranchBody .hi counter target
  | .dblsW counter target => decBranchBody .ls counter target
  | .dbccW counter target => decBranchBody .cc counter target
  | .dbcsW counter target => decBranchBody .cs counter target
  | .dbneW counter target => decBranchBody .ne counter target
  | .dbeqW counter target => decBranchBody .eq counter target
  | .dbvcW counter target => decBranchBody .vc counter target
  | .dbvsW counter target => decBranchBody .vs counter target
  | .dbplW counter target => decBranchBody .pl counter target
  | .dbmiW counter target => decBranchBody .mi counter target
  | .dbgeW counter target => decBranchBody .ge counter target
  | .dbltW counter target => decBranchBody .lt counter target
  | .dbgtW counter target => decBranchBody .gt counter target
  | .dbleW counter target => decBranchBody .le counter target
  | .stB dst => setBody .t dst
  | .sfB dst => setBody .f dst
  | .shiB dst => setBody .hi dst
  | .slsB dst => setBody .ls dst
  | .sccB dst => setBody .cc dst
  | .scsB dst => setBody .cs dst
  | .sneB dst => setBody .ne dst
  | .seqB dst => setBody .eq dst
  | .svcB dst => setBody .vc dst
  | .svsB dst => setBody .vs dst
  | .splB dst => setBody .pl dst
  | .smiB dst => setBody .mi dst
  | .sgeB dst => setBody .ge dst
  | .sltB dst => setBody .lt dst
  | .sgtB dst => setBody .gt dst
  | .sleB dst => setBody .le dst
  | .leaL src dst => leaBody src dst
  | .peaL src => peaBody src
  | .link reg disp => linkBody reg disp
  | .unlk reg => unlkBody reg
  | .movemWStore reglist dst => movemStoreBody .W reglist dst
  | .movemLStore reglist dst => movemStoreBody .L reglist dst
  | .movemWLoad src reglist => movemLoadBody .W src reglist
  | .movemLLoad src reglist => movemLoadBody .L src reglist
  | .trap vector => trapBody vector

/-- Every instruction is its pseudocode, run on the forms that run. -/
theorem exec_eq_runForm (i : Instr) (s : State) : exec i s = runForm i.shape (bodyOf i) s := by
  cases i <;> rfl

/-- A property of shape and pseudocode holds of every instruction when it holds of each family. The result functions of
the multiply and divide family are named, since a family property may depend on them. -/
theorem bodyOf_families {P : Shape → (State → Res State) → Prop}
    (move : ∀ sz src dst, P (.move sz src dst) (moveBody sz src dst))
    (moveq : ∀ src dst, P (.moveq src dst) (moveqBody src dst))
    (addSub : ∀ sz f src dst, P (.addSub sz src dst) (arithBody sz f src dst))
    (quick : ∀ sz f src dst, P (.quick sz src dst) (arithBody sz f src dst))
    (toAddr : ∀ sz f src dst, P (.toAddr sz src dst) (addrArithBody sz f src dst))
    (compare : ∀ sz src dst, P (.compare sz src dst) (cmpBody sz src dst))
    (test : ∀ sz dst, P (.unary sz dst) (tstBody sz dst))
    (neg : ∀ sz dst, P (.unary sz dst) (negBody sz dst))
    (not : ∀ sz dst, P (.unary sz dst) (notBody sz dst))
    (andOr : ∀ sz f src dst, P (.andOr sz src dst) (logicBody sz f src dst))
    (eor : ∀ sz f src dst, P (.eor sz src dst) (logicBody sz f src dst))
    (mulDiv : ∀ f ∈ [mulsResult, muluResult, divsResult, divuResult], ∀ src dst, P (.mulDiv src dst) (mulDivBody f src dst))
    (ext : ∀ sz dst, P (.dataReg dst) (extBody sz dst))
    (swap : ∀ dst, P (.dataReg dst) (swapBody dst))
    (shift : ∀ op sz args, P (.shift sz args) (shiftBody op sz args))
    (bit : ∀ op sz bitnum dst, P (.bit sz bitnum dst) (bitBody op sz bitnum dst))
    (branch : ∀ k target, P (.branch target) (branchBody k target))
    (bra : ∀ target, P (.branch target) (braBody target))
    (bsr : ∀ target, P (.branch target) (callBody (fun _ => targetOf target)))
    (jsr : ∀ target, P (.jump target) (callBody (effAddr target)))
    (rts : P (.bare) (rtsBody))
    (decBranch : ∀ k counter target, P (.decBranch counter target) (decBranchBody k counter target))
    (setByte : ∀ k dst, P (.setByte dst) (setBody k dst))
    (lea : ∀ src dst, P (.loadAddr src dst) (leaBody src dst))
    (pea : ∀ src, P (.pushAddr src) (peaBody src))
    (link : ∀ reg disp, P (.link reg disp) (linkBody reg disp))
    (unlk : ∀ reg, P (.unlink reg) (unlkBody reg))
    (storeRegs : ∀ sz reglist dst, P (.storeRegs sz reglist dst) (movemStoreBody sz reglist dst))
    (loadRegs : ∀ sz src reglist, P (.loadRegs sz src reglist) (movemLoadBody sz src reglist))
    (trap : ∀ vector, P (.trap vector) (trapBody vector)) (i : Instr) : P i.shape (bodyOf i) := by
  cases i with
  | moveB _ _ => exact move _ _ _
  | moveW _ _ => exact move _ _ _
  | moveL _ _ => exact move _ _ _
  | moveqL _ _ => exact moveq _ _
  | addB _ _ => exact addSub _ _ _ _
  | addW _ _ => exact addSub _ _ _ _
  | addL _ _ => exact addSub _ _ _ _
  | addqB _ _ => exact quick _ _ _ _
  | addqW _ _ => exact quick _ _ _ _
  | addqL _ _ => exact quick _ _ _ _
  | addaW _ _ => exact toAddr _ _ _ _
  | addaL _ _ => exact toAddr _ _ _ _
  | subB _ _ => exact addSub _ _ _ _
  | subW _ _ => exact addSub _ _ _ _
  | subL _ _ => exact addSub _ _ _ _
  | subqB _ _ => exact quick _ _ _ _
  | subqW _ _ => exact quick _ _ _ _
  | subqL _ _ => exact quick _ _ _ _
  | subaW _ _ => exact toAddr _ _ _ _
  | subaL _ _ => exact toAddr _ _ _ _
  | cmpB _ _ => exact compare _ _ _
  | cmpW _ _ => exact compare _ _ _
  | cmpL _ _ => exact compare _ _ _
  | tstB _ => exact test _ _
  | tstW _ => exact test _ _
  | tstL _ => exact test _ _
  | mulsW _ _ => exact mulDiv _ (by simp) _ _
  | muluW _ _ => exact mulDiv _ (by simp) _ _
  | divsW _ _ => exact mulDiv _ (by simp) _ _
  | divuW _ _ => exact mulDiv _ (by simp) _ _
  | andB _ _ => exact andOr _ _ _ _
  | andW _ _ => exact andOr _ _ _ _
  | andL _ _ => exact andOr _ _ _ _
  | orB _ _ => exact andOr _ _ _ _
  | orW _ _ => exact andOr _ _ _ _
  | orL _ _ => exact andOr _ _ _ _
  | eorB _ _ => exact eor _ _ _ _
  | eorW _ _ => exact eor _ _ _ _
  | eorL _ _ => exact eor _ _ _ _
  | notB _ => exact not _ _
  | notW _ => exact not _ _
  | notL _ => exact not _ _
  | aslB _ => exact shift _ _ _
  | aslW _ => exact shift _ _ _
  | aslL _ => exact shift _ _ _
  | asrB _ => exact shift _ _ _
  | asrW _ => exact shift _ _ _
  | asrL _ => exact shift _ _ _
  | lslB _ => exact shift _ _ _
  | lslW _ => exact shift _ _ _
  | lslL _ => exact shift _ _ _
  | lsrB _ => exact shift _ _ _
  | lsrW _ => exact shift _ _ _
  | lsrL _ => exact shift _ _ _
  | rolB _ => exact shift _ _ _
  | rolW _ => exact shift _ _ _
  | rolL _ => exact shift _ _ _
  | rorB _ => exact shift _ _ _
  | rorW _ => exact shift _ _ _
  | rorL _ => exact shift _ _ _
  | negB _ => exact neg _ _
  | negW _ => exact neg _ _
  | negL _ => exact neg _ _
  | extW _ => exact ext _ _
  | extL _ => exact ext _ _
  | swapW _ => exact swap _
  | btstL _ _ => exact bit _ _ _ _
  | btstB _ _ => exact bit _ _ _ _
  | bclrL _ _ => exact bit _ _ _ _
  | bclrB _ _ => exact bit _ _ _ _
  | bsetL _ _ => exact bit _ _ _ _
  | bsetB _ _ => exact bit _ _ _ _
  | bchgL _ _ => exact bit _ _ _ _
  | bchgB _ _ => exact bit _ _ _ _
  | bt _ => exact branch _ _
  | bf _ => exact branch _ _
  | bhi _ => exact branch _ _
  | bls _ => exact branch _ _
  | bcc _ => exact branch _ _
  | bcs _ => exact branch _ _
  | bne _ => exact branch _ _
  | beq _ => exact branch _ _
  | bvc _ => exact branch _ _
  | bvs _ => exact branch _ _
  | bpl _ => exact branch _ _
  | bmi _ => exact branch _ _
  | bge _ => exact branch _ _
  | blt _ => exact branch _ _
  | bgt _ => exact branch _ _
  | ble _ => exact branch _ _
  | bra _ => exact bra _
  | bsr _ => exact bsr _
  | jsr _ => exact jsr _
  | rts => exact rts
  | dbtW _ _ => exact decBranch _ _ _
  | dbfW _ _ => exact decBranch _ _ _
  | dbhiW _ _ => exact decBranch _ _ _
  | dblsW _ _ => exact decBranch _ _ _
  | dbccW _ _ => exact decBranch _ _ _
  | dbcsW _ _ => exact decBranch _ _ _
  | dbneW _ _ => exact decBranch _ _ _
  | dbeqW _ _ => exact decBranch _ _ _
  | dbvcW _ _ => exact decBranch _ _ _
  | dbvsW _ _ => exact decBranch _ _ _
  | dbplW _ _ => exact decBranch _ _ _
  | dbmiW _ _ => exact decBranch _ _ _
  | dbgeW _ _ => exact decBranch _ _ _
  | dbltW _ _ => exact decBranch _ _ _
  | dbgtW _ _ => exact decBranch _ _ _
  | dbleW _ _ => exact decBranch _ _ _
  | stB _ => exact setByte _ _
  | sfB _ => exact setByte _ _
  | shiB _ => exact setByte _ _
  | slsB _ => exact setByte _ _
  | sccB _ => exact setByte _ _
  | scsB _ => exact setByte _ _
  | sneB _ => exact setByte _ _
  | seqB _ => exact setByte _ _
  | svcB _ => exact setByte _ _
  | svsB _ => exact setByte _ _
  | splB _ => exact setByte _ _
  | smiB _ => exact setByte _ _
  | sgeB _ => exact setByte _ _
  | sltB _ => exact setByte _ _
  | sgtB _ => exact setByte _ _
  | sleB _ => exact setByte _ _
  | leaL _ _ => exact lea _ _
  | peaL _ => exact pea _
  | link _ _ => exact link _ _
  | unlk _ => exact unlk _
  | movemWStore _ _ => exact storeRegs _ _ _
  | movemLStore _ _ => exact storeRegs _ _ _
  | movemWLoad _ _ => exact loadRegs _ _ _
  | movemLLoad _ _ => exact loadRegs _ _ _
  | trap _ => exact trap _

end Sys2Proof.Machine
end

