-- ==== Sys2Proof/Laws/Admitted.lean ====
section
/-! SUPPORT. What the operand classes of R103 say of an operand, and that no admitted form is refused. -/

namespace Sys2Proof

/-! ## The operand classes -/

theorem isDn_iff {o : Operand} : o.isDn = true ↔ ∃ n, o = .register (.data n) := by
  unfold Operand.isDn Operand.mode
  split <;> simp_all <;> split <;> simp

theorem isAn_iff {o : Operand} : o.isAn = true ↔ ∃ n, o = .register (.addr n) := by
  unfold Operand.isAn Operand.mode
  split <;> simp_all <;> split <;> simp

theorem isImm_iff {o : Operand} : o.isImm = true ↔ ∃ v, o = .immediate v := by
  unfold Operand.isImm Operand.mode
  split <;> simp_all <;> split <;> simp

theorem isTarget_iff {o : Operand} : o.isTarget = true ↔ ∃ t, o = .address t := by
  unfold Operand.isTarget Operand.mode
  split <;> simp_all <;> split <;> simp

theorem isImmIn_iff {lo hi : Int} {o : Operand} :
    o.isImmIn lo hi = true ↔ ∃ v, o = .immediate v ∧ lo ≤ v.toInt ∧ v.toInt ≤ hi := by
  cases o <;> simp [Operand.isImmIn]

theorem isFrameReg_iff {o : Operand} : o.isFrameReg = true ↔ ∃ n, o = .register (.addr n) ∧ n ≠ 7 := by
  unfold Operand.isFrameReg
  split <;> simp

/-- A memory operand or data register resolves, and not to an immediate. -/
theorem isDataAlt_not {o : Operand} (h : o.isDataAlt = true) : o.isTarget = false ∧ o.isImm = false := by
  unfold Operand.isDataAlt Operand.isDn Operand.isMemAlt at h
  unfold Operand.isTarget Operand.isImm
  cases hm : o.mode <;> simp_all

theorem isMemAlt_not {o : Operand} (h : o.isMemAlt = true) : o.isTarget = false ∧ o.isImm = false :=
  isDataAlt_not (by simp [Operand.isDataAlt, h])

theorem isDn_not {o : Operand} (h : o.isDn = true) : o.isTarget = false ∧ o.isImm = false :=
  isDataAlt_not (by simp [Operand.isDataAlt, h])

theorem isData_not {o : Operand} (h : o.isData = true) : o.isTarget = false := by
  unfold Operand.isData at h
  rcases Bool.or_eq_true_iff.1 h with h | h
  · exact (isDataAlt_not h).1
  · obtain ⟨v, rfl⟩ := isImm_iff.1 h; rfl

theorem isAll_not {sz : Size} {o : Operand} (h : o.isAll sz = true) : o.isTarget = false := by
  unfold Operand.isAll at h
  rcases Bool.or_eq_true_iff.1 h with h | h
  · exact isData_not h
  · obtain ⟨n, rfl⟩ := isAn_iff.1 (Bool.and_eq_true_iff.1 h).1; rfl

/-- The address-only forms. -/
theorem isCtrl_cases {o : Operand} (h : o.isCtrl = true) :
    (∃ n d ix, o = .indirect n d ix .plain) ∨ ∃ addr, o = .absolute addr := by
  unfold Operand.isCtrl Operand.mode at h
  cases o with
  | indirect n d ix m =>
    cases m <;> cases ix <;> simp_all <;> split at h <;> simp_all <;> (rename_i he; split at he <;> cases he)
  | register r => cases r <;> simp_all
  | _ => simp_all

theorem predec_cases {o : Operand} (h : o.mode = .predec) : ∃ n, o = .indirect n 0 none .pre := by
  unfold Operand.mode at h
  cases o with
  | indirect n d ix m =>
    cases m <;> cases ix <;> simp_all
    all_goals (split at h <;> simp_all)
  | register r => cases r <;> simp_all
  | _ => simp_all

theorem postinc_cases {o : Operand} (h : o.mode = .postinc) : ∃ n, o = .indirect n 0 none .post := by
  unfold Operand.mode at h
  cases o with
  | indirect n d ix m =>
    cases m <;> cases ix <;> simp_all
    all_goals (split at h <;> simp_all)
  | register r => cases r <;> simp_all
  | _ => simp_all

namespace Machine

/-! ## No refusal -/

theorem neverRefuses_modify {sz : Size} {f : BitVec sz.bits → Flags → Computed sz.bits} {dst : Operand}
    (h : dst.isTarget = false) (hi : dst.isImm = false) (s : State) :
    NeverRefuses (do let u ← modifyDest dst sz f s; .ok u.advance) :=
  neverRefuses_bind (neverRefuses_modifyDest h hi sz f s) fun _ _ => neverRefuses_ok _

theorem neverRefuses_addSub {sz : Size} {src dst : Operand}
    (h : (src.isAll sz && dst.isDn || src.isDn && dst.isMemAlt) = true) :
    src.isTarget = false ∧ dst.isTarget = false ∧ dst.isImm = false := by
  rcases Bool.or_eq_true_iff.1 h with h | h <;> obtain ⟨hs, hd⟩ := Bool.and_eq_true_iff.1 h
  · exact ⟨isAll_not hs, isDn_not hd⟩
  · exact ⟨(isDn_not hs).1, isMemAlt_not hd⟩

theorem neverRefuses_andOr {src dst : Operand}
    (h : (src.isData && dst.isDn || src.isDn && dst.isMemAlt) = true) :
    src.isTarget = false ∧ dst.isTarget = false ∧ dst.isImm = false := by
  rcases Bool.or_eq_true_iff.1 h with h | h <;> obtain ⟨hs, hd⟩ := Bool.and_eq_true_iff.1 h
  · exact ⟨isData_not hs, isDn_not hd⟩
  · exact ⟨(isDn_not hs).1, isMemAlt_not hd⟩

theorem neverRefuses_arithBody {sz : Size} {f : BitVec sz.bits → BitVec sz.bits → Flags → Computed sz.bits}
    {src dst : Operand} (hs : src.isTarget = false) (hd : dst.isTarget = false) (hi : dst.isImm = false) (s : State) :
    NeverRefuses (arithBody sz f src dst s) :=
  neverRefuses_bind (neverRefuses_readSource hs sz s) fun _ _ => neverRefuses_modify hd hi _

theorem neverRefuses_logicBody {sz : Size} {f : BitVec sz.bits → BitVec sz.bits → BitVec sz.bits}
    {src dst : Operand} (hs : src.isTarget = false) (hd : dst.isTarget = false) (hi : dst.isImm = false) (s : State) :
    NeverRefuses (logicBody sz f src dst s) :=
  neverRefuses_bind (neverRefuses_readSource hs sz s) fun _ _ => neverRefuses_modify hd hi _

theorem neverRefuses_mulDiv {f : BitVec 16 → Word → Res MulDivResult}
    (hf : f ∈ [mulsResult, muluResult, divsResult, divuResult]) (a : BitVec 16) (b : Word) : NeverRefuses (f a b) := by
  simp only [List.mem_cons, List.not_mem_nil, or_false] at hf
  rcases hf with rfl | rfl | rfl | rfl
  · exact neverRefuses_ok _
  · exact neverRefuses_ok _
  · unfold divsResult; split
    · exact neverRefuses_raise _
    · dsimp only; split
      · exact neverRefuses_raise _
      · exact neverRefuses_ok _
  · unfold divuResult; split
    · exact neverRefuses_raise _
    · dsimp only; split
      · exact neverRefuses_raise _
      · exact neverRefuses_ok _

theorem neverRefuses_storeUp {sz : Size} {rs : List Reg} {addr : Word} {s : State} :
    NeverRefuses (storeUp sz rs addr s) := by
  induction rs generalizing addr s with
  | nil => exact neverRefuses_ok _
  | cons r rs ih => exact neverRefuses_bind (neverRefuses_memWrite _ _ _ _) fun _ _ => ih

theorem neverRefuses_storeDown {sz : Size} {rs : List Reg} {addr : Word} {s : State} :
    NeverRefuses (storeDown sz rs addr s) := by
  induction rs generalizing addr s with
  | nil => exact neverRefuses_ok _
  | cons r rs ih => exact neverRefuses_bind (neverRefuses_memWrite _ _ _ _) fun _ _ => ih

theorem neverRefuses_loadUp {sz : Size} {rs : List Reg} {addr : Word} {s : State} :
    NeverRefuses (loadUp sz rs addr s) := by
  induction rs generalizing addr s with
  | nil => exact neverRefuses_ok _
  | cons r rs ih =>
    exact neverRefuses_bind (neverRefuses_memRead _ _ _) fun _ _ =>
      neverRefuses_bind (neverRefuses_regWrite _ _ _ _) fun _ _ => ih

theorem neverRefuses_effAddr {o : Operand} (h : (o.isTarget || o.isCtrl) = true) (s : State) :
    NeverRefuses (effAddr o s) := by
  rcases Bool.or_eq_true_iff.1 h with h | h
  · obtain ⟨t, rfl⟩ := isTarget_iff.1 h; exact neverRefuses_ok _
  · rcases isCtrl_cases h with ⟨n, d, ix, rfl⟩ | ⟨addr, rfl⟩ <;> exact neverRefuses_ok _

theorem neverRefuses_trapBody (v : Word) (s : State) : NeverRefuses (trapBody (.immediate v) s) := by
  refine neverRefuses_bind (neverRefuses_ok v) fun _ _ => ?_
  split
  · refine neverRefuses_bind ?_ fun _ _ => neverRefuses_ok _
    unfold trapTask
    dsimp only
    split
    · exact neverRefuses_bind (neverRefuses_memReadBytes _ _ _) fun _ _ => neverRefuses_ok _
    · exact neverRefuses_bind (neverRefuses_memReadBytes _ _ _) fun _ _ => neverRefuses_ok _
    all_goals first | exact neverRefuses_ok _ | exact neverRefuses_raise _
  · exact neverRefuses_raise _

/-- No admitted form is refused (R103). -/
theorem admitted_neverRefuses {i : Instr} (h : i.wellFormed = true) (s : State) : NeverRefuses (bodyOf i s) := by
  refine bodyOf_families
    (P := fun sh body => sh.admitted = true → ∀ s, NeverRefuses (body s))
    (move := fun sz src dst h s => ?move) (moveq := fun src dst h s => ?moveq) (addSub := fun sz f src dst h s => ?addSub)
    (quick := fun sz f src dst h s => ?quick) (toAddr := fun sz f src dst h s => ?toAddr)
    (compare := fun sz src dst h s => ?compare) (test := fun sz dst h s => ?test)
    (neg := fun sz dst h s => neverRefuses_modify (isDataAlt_not h).1 (isDataAlt_not h).2 s)
    (not := fun sz dst h s => neverRefuses_modify (isDataAlt_not h).1 (isDataAlt_not h).2 s)
    (andOr := fun sz f src dst h s => ?andOr) (eor := fun sz f src dst h s => ?eor)
    (mulDiv := fun f hf src dst h s => ?mulDiv)
    (ext := fun sz dst h s => neverRefuses_modify (isDn_not h).1 (isDn_not h).2 s)
    (swap := fun dst h s => neverRefuses_modify (isDn_not h).1 (isDn_not h).2 s)
    (shift := fun op sz args h s => ?shift) (bit := fun op sz bitnum dst h s => ?bit)
    (branch := fun k target h s => ?branch) (bra := fun target h s => ?bra) (bsr := fun target h s => ?bsr)
    (jsr := fun target h s => ?jsr) (rts := fun h s => ?rts) (decBranch := fun k counter target h s => ?decBranch)
    (setByte := fun k dst h s => ?setByte) (lea := fun src dst h s => ?lea) (pea := fun src h s => ?pea)
    (link := fun reg disp h s => ?link) (unlk := fun reg h s => ?unlk) (storeRegs := fun sz reglist dst h s => ?storeRegs)
    (loadRegs := fun sz src reglist h s => ?loadRegs) (trap := fun v h s => ?trap) i h s
  case move =>
    obtain ⟨hs, hd⟩ := Bool.and_eq_true_iff.1 h
    exact neverRefuses_bind (neverRefuses_readSource (isAll_not hs) sz s) fun _ _ =>
      neverRefuses_bind (neverRefuses_writeDest (isDataAlt_not hd).1 (isDataAlt_not hd).2 _ _ _) fun _ _ =>
        neverRefuses_ok _
  case moveq =>
    obtain ⟨hs, hd⟩ := Bool.and_eq_true_iff.1 h
    obtain ⟨v, rfl, -⟩ := isImmIn_iff.1 hs
    obtain ⟨n, rfl⟩ := isDn_iff.1 hd
    exact neverRefuses_bind (neverRefuses_ok v) fun _ _ => neverRefuses_bind (neverRefuses_ok _) fun _ _ =>
      neverRefuses_bind (neverRefuses_regWrite _ _ _ _) fun _ _ => neverRefuses_ok _
  case addSub =>
    obtain ⟨hs, hd, hi⟩ := neverRefuses_addSub h
    exact neverRefuses_arithBody hs hd hi s
  case quick =>
    obtain ⟨hs, hd⟩ := Bool.and_eq_true_iff.1 h
    obtain ⟨v, rfl, -⟩ := isImmIn_iff.1 hs
    exact neverRefuses_arithBody rfl (isDataAlt_not hd).1 (isDataAlt_not hd).2 s
  case toAddr =>
    obtain ⟨hs, hd⟩ := Bool.and_eq_true_iff.1 h
    obtain ⟨n, rfl⟩ := isAn_iff.1 hd
    exact neverRefuses_bind (neverRefuses_readSource (isAll_not (Bool.and_eq_true_iff.1 hs).2) sz s) fun _ _ =>
      neverRefuses_bind (neverRefuses_ok _) fun _ _ => neverRefuses_ok _
  case compare =>
    obtain ⟨hs, hd⟩ := Bool.and_eq_true_iff.1 h
    obtain ⟨n, rfl⟩ := isDn_iff.1 hd
    exact neverRefuses_bind (neverRefuses_readSource (isAll_not hs) sz s) fun _ _ =>
      neverRefuses_bind (neverRefuses_ok _) fun _ _ => neverRefuses_bind (neverRefuses_regRead _ _ _) fun _ _ =>
        neverRefuses_ok _
  case test =>
    exact neverRefuses_bind (neverRefuses_readSource (isDataAlt_not h).1 sz s) fun _ _ => neverRefuses_ok _
  case andOr =>
    obtain ⟨hs, hd, hi⟩ := neverRefuses_andOr h
    exact neverRefuses_logicBody hs hd hi s
  case eor =>
    obtain ⟨hs, hd⟩ := Bool.and_eq_true_iff.1 h
    exact neverRefuses_logicBody (isDn_not hs).1 (isDataAlt_not hd).1 (isDataAlt_not hd).2 s
  case mulDiv =>
    obtain ⟨hs, hd⟩ := Bool.and_eq_true_iff.1 h
    obtain ⟨n, rfl⟩ := isDn_iff.1 hd
    exact neverRefuses_bind (neverRefuses_readSource (isData_not hs) .W s) fun _ _ =>
      neverRefuses_bind (neverRefuses_ok _) fun _ _ => neverRefuses_bind (neverRefuses_mulDiv hf _ _) fun _ _ =>
        neverRefuses_ok _
  case shift =>
    cases args with
    | counted count dst =>
      obtain ⟨hc, hd⟩ := Bool.and_eq_true_iff.1 h
      refine neverRefuses_bind ?_ fun _ _ => neverRefuses_modify (isDn_not hd).1 (isDn_not hd).2 _
      rcases Bool.or_eq_true_iff.1 hc with hc | hc
      · obtain ⟨v, rfl, -⟩ := isImmIn_iff.1 hc; exact neverRefuses_ok _
      · obtain ⟨n, rfl⟩ := isDn_iff.1 hc; exact neverRefuses_ok _
    | memory dst =>
      obtain ⟨-, hd⟩ := Bool.and_eq_true_iff.1 h
      exact neverRefuses_modify (isMemAlt_not hd).1 (isMemAlt_not hd).2 _
  case bit =>
    obtain ⟨hn, hd⟩ := Bool.and_eq_true_iff.1 h
    have hdst : dst.isTarget = false ∧ dst.isImm = false := by
      rcases Bool.or_eq_true_iff.1 hd with hd | hd
      · exact isDn_not (Bool.and_eq_true_iff.1 hd).2
      · exact isMemAlt_not (Bool.and_eq_true_iff.1 hd).2
    refine neverRefuses_bind ?_ fun _ _ => neverRefuses_bind (neverRefuses_resolve hdst.1 sz s) fun p hp =>
      neverRefuses_bind (neverRefuses_readLoc _ _ _) fun _ _ => neverRefuses_bind ?_ fun _ _ => neverRefuses_ok _
    · rcases Bool.or_eq_true_iff.1 hn with hn | hn
      · obtain ⟨v, rfl⟩ := isImm_iff.1 hn; exact neverRefuses_ok _
      · obtain ⟨n, rfl⟩ := isDn_iff.1 hn; exact neverRefuses_ok _
    · have hl := resolve_not_imm hdst.2 (l := p.1) (u := p.2) hp
      cases op
      · exact neverRefuses_ok _
      all_goals exact neverRefuses_writeLoc hl _ _ _
  case branch =>
    obtain ⟨t, rfl⟩ := isTarget_iff.1 h
    exact neverRefuses_bind (neverRefuses_ok t) fun _ _ => neverRefuses_ok _
  case bra =>
    obtain ⟨t, rfl⟩ := isTarget_iff.1 h
    exact neverRefuses_bind (neverRefuses_ok t) fun _ _ => neverRefuses_ok _
  case bsr =>
    obtain ⟨t, rfl⟩ := isTarget_iff.1 h
    exact neverRefuses_bind (neverRefuses_ok t) fun _ _ => neverRefuses_bind (neverRefuses_push32 _ _) fun _ _ =>
      neverRefuses_ok _
  case jsr =>
    exact neverRefuses_bind (neverRefuses_effAddr h s) fun _ _ => neverRefuses_bind (neverRefuses_push32 _ _) fun _ _ =>
      neverRefuses_ok _
  case rts => exact neverRefuses_bind (neverRefuses_pop32 s) fun _ _ => neverRefuses_ok _
  case decBranch =>
    obtain ⟨hc, ht⟩ := Bool.and_eq_true_iff.1 h
    obtain ⟨n, rfl⟩ := isDn_iff.1 hc
    obtain ⟨t, rfl⟩ := isTarget_iff.1 ht
    refine neverRefuses_bind (neverRefuses_ok _) fun _ _ => neverRefuses_bind (neverRefuses_ok t) fun _ _ => ?_
    split
    · exact neverRefuses_ok _
    · exact neverRefuses_bind (neverRefuses_regWrite _ _ _ _) fun _ _ => neverRefuses_ok _
  case setByte =>
    exact neverRefuses_bind (neverRefuses_writeDest (isDataAlt_not h).1 (isDataAlt_not h).2 _ _ _) fun _ _ =>
      neverRefuses_ok _
  case lea =>
    obtain ⟨hs, hd⟩ := Bool.and_eq_true_iff.1 h
    obtain ⟨n, rfl⟩ := isAn_iff.1 hd
    exact neverRefuses_bind (neverRefuses_effAddr (by simp [hs]) s) fun _ _ =>
      neverRefuses_bind (neverRefuses_ok _) fun _ _ => neverRefuses_ok _
  case pea =>
    have h : src.isCtrl = true := h
    exact neverRefuses_bind (neverRefuses_effAddr (by simp [h]) s) fun _ _ =>
      neverRefuses_bind (neverRefuses_push32 _ _) fun _ _ => neverRefuses_ok _
  case link =>
    obtain ⟨hr, hd⟩ := Bool.and_eq_true_iff.1 h
    obtain ⟨n, rfl, -⟩ := isFrameReg_iff.1 hr
    obtain ⟨v, rfl⟩ := isImm_iff.1 hd
    exact neverRefuses_bind (neverRefuses_ok _) fun _ _ => neverRefuses_bind (neverRefuses_ok _) fun _ _ =>
      neverRefuses_bind (neverRefuses_push32 _ _) fun _ _ => neverRefuses_ok _
  case unlk =>
    obtain ⟨n, rfl, -⟩ := isFrameReg_iff.1 h
    exact neverRefuses_bind (neverRefuses_ok _) fun _ _ => neverRefuses_bind (neverRefuses_pop32 _) fun _ _ =>
      neverRefuses_ok _
  case storeRegs =>
    obtain ⟨-, h⟩ := Bool.and_eq_true_iff.1 h
    rcases Bool.or_eq_true_iff.1 h with h | h
    · rcases isCtrl_cases h with ⟨n, d, ix, rfl⟩ | ⟨addr, rfl⟩ <;>
        exact neverRefuses_bind neverRefuses_storeUp fun _ _ => neverRefuses_ok _
    · obtain ⟨n, rfl⟩ := predec_cases (by simpa using (Bool.and_eq_true_iff.1 h).1)
      exact neverRefuses_bind neverRefuses_storeDown fun _ _ => neverRefuses_ok _
  case loadRegs =>
    obtain ⟨-, h⟩ := Bool.and_eq_true_iff.1 h
    rcases Bool.or_eq_true_iff.1 h with h | h
    · rcases isCtrl_cases h with ⟨n, d, ix, rfl⟩ | ⟨addr, rfl⟩ <;>
        exact neverRefuses_bind neverRefuses_loadUp fun _ _ => neverRefuses_ok _
    · obtain ⟨n, rfl⟩ := postinc_cases (by simpa using (Bool.and_eq_true_iff.1 h).1)
      exact neverRefuses_bind neverRefuses_loadUp fun _ _ => neverRefuses_ok _
  case trap =>
    have hv : v = .immediate 15 := by simpa [Shape.admitted] using h
    subst hv
    exact neverRefuses_trapBody 15 s

/-- An admitted form is executed: it answers the state of its pseudocode, or it takes the fault its pseudocode raises. -/
theorem admitted_exec {i : Instr} (h : i.wellFormed = true) (s : State) :
    (∃ t, bodyOf i s = .ok t ∧ exec i s = .next t) ∨
      ∃ f, bodyOf i s = .error (.raise f) ∧ exec i s = .next (takeFault f s) := by
  have hsh : shapeRuns i.shape = true := by
    have h : i.shape.admitted = true := h
    simp [shapeRuns, h]
  have hn := admitted_neverRefuses h s
  rw [exec_eq_runForm]
  rcases runForm_cases i.shape (bodyOf i) s with ⟨-, t, ht, he⟩ | ⟨-, f, hf, he⟩ | ⟨r, -, hr | hr⟩
  · exact .inl ⟨t, ht, he⟩
  · exact .inr ⟨f, hf, he⟩
  · rw [hsh] at hr; cases hr
  · exact absurd hr (hn r)

end Machine

end Sys2Proof
end

