-- ==== Sys2Proof/Laws/Writes.lean ====
section
/-! SUPPORT. What the pseudocode of an instruction can do, said once: every instruction but TRAP ends in a state reached by
recorded primitive writes (`Writes`). From it follow the frame of the control state, the canonical memory, and that the
recorded mutations undo the instruction. -/

namespace Sys2Proof.Machine

/-- `t` is reached from `s` by the primitive changes an instruction may make. -/
inductive Writes : State → State → Prop
  | refl (s : State) : Writes s s
  | reg {s t : State} (h : Writes s t) (r : Reg) (v : Word) (sz : Size) : Writes s (t.putReg r v sz)
  | store {s t : State} (h : Writes s t) (addr : Word) (sz : Size) (v : BitVec sz.bits) (hb : t.accessible addr sz) :
      Writes s (t.storeAt addr sz v)
  | bytes {s t : State} (h : Writes s t) (addr : Word) (bs : List Byte) (hb : t.inBounds addr bs.length = true) :
      Writes s (t.storeBytes addr bs)
  | flags {s t : State} (h : Writes s t) (f : Flags) : Writes s (t.putFlags f)
  | jump {s t : State} (h : Writes s t) (p : Word) : Writes s (t.jump p)
  | advance {s t : State} (h : Writes s t) : Writes s t.advance
  | pushCall {s t : State} (h : Writes s t) (target sp : Word) : Writes s (t.pushCall target sp)
  | popCall {s t : State} (h : Writes s t) : Writes s t.popCall

theorem writes_trans {s t u : State} (h : Writes s t) (h' : Writes t u) : Writes s u := by
  induction h' with
  | refl => exact h
  | reg _ r v sz ih => exact .reg ih r v sz
  | store _ addr sz v hb ih => exact .store ih addr sz v hb
  | bytes _ addr bs hb ih => exact .bytes ih addr bs hb
  | flags _ f ih => exact .flags ih f
  | jump _ p ih => exact .jump ih p
  | advance _ ih => exact .advance ih
  | pushCall _ target sp ih => exact .pushCall ih target sp
  | popCall _ ih => exact .popCall ih

/-! ## The shared operations -/

theorem resolve_writes {op : Operand} {sz : Size} {s : State} {p : Loc × State} (h : resolve op sz s = .ok p) :
    Writes s p.2 := by
  rcases resolve_state (l := p.1) (u := p.2) h with he | ⟨n, v, -, he⟩ <;> rw [he]
  · exact .refl s
  · exact .reg (.refl s) _ _ _

theorem putLoc_writes {l : Loc} {sz : Size} {s : State} (h : l.writable sz s) (v : BitVec sz.bits) :
    Writes s (s.putLoc l sz v) := by
  cases l with
  | imm w => exact .refl s
  | reg r => exact .reg (.refl s) _ _ _
  | mem addr => exact .store (.refl s) _ _ _ h

theorem readSource_writes {op : Operand} {sz : Size} {s : State} {p : BitVec sz.bits × State}
    (h : readSource op sz s = .ok p) : Writes s p.2 := by
  obtain ⟨l, hl, -⟩ := readSource_eq_ok.1 h
  exact resolve_writes hl

theorem writeDest_writes {op : Operand} {sz : Size} {v : BitVec sz.bits} {s t : State}
    (h : writeDest op sz v s = .ok t) : Writes s t := by
  obtain ⟨l, u, hl, hw, rfl⟩ := writeDest_eq_ok.1 h
  exact writes_trans (resolve_writes hl) (putLoc_writes hw v)

theorem modifyDest_writes {op : Operand} {sz : Size} {f : BitVec sz.bits → Flags → Computed sz.bits} {s t : State}
    (h : modifyDest op sz f s = .ok t) : Writes s t := by
  obtain ⟨l, u, v, hl, -, hw, rfl⟩ := modifyDest_eq_ok.1 h
  exact .flags (writes_trans (resolve_writes hl) (putLoc_writes hw _)) _

theorem regWrite_writes {r : Reg} {sz : Size} {v : BitVec sz.bits} {s t : State} (h : regWrite r sz v s = .ok t) :
    Writes s t := by
  obtain ⟨-, rfl⟩ := regWrite_eq_ok.1 h
  exact .reg (.refl s) _ _ _

theorem memWrite_writes {addr : Word} {sz : Size} {v : BitVec sz.bits} {s t : State}
    (h : memWrite addr sz v s = .ok t) : Writes s t := by
  obtain ⟨ha, rfl⟩ := memWrite_eq_ok.1 h
  exact .store (.refl s) _ _ _ ha

theorem push32_writes {v : Word} {s t : State} (h : push32 v s = .ok t) : Writes s t :=
  writes_trans (.reg (.refl s) _ _ _) (memWrite_writes h)

theorem pop32_writes {s : State} {p : Word × State} (h : pop32 s = .ok p) : Writes s p.2 := by
  obtain ⟨-, rfl⟩ := pop32_eq_ok.1 h
  exact .reg (.refl s) _ _ _

theorem storeUp_writes {sz : Size} {rs : List Reg} {addr : Word} {s t : State} (h : storeUp sz rs addr s = .ok t) :
    Writes s t := by
  induction rs generalizing addr s with
  | nil => cases h; exact .refl _
  | cons r rs ih =>
    obtain ⟨u, hu, h⟩ := bind_eq_ok.1 h
    exact writes_trans (memWrite_writes hu) (ih h)

theorem storeDown_writes {sz : Size} {rs : List Reg} {addr : Word} {s : State} {p : Word × State}
    (h : storeDown sz rs addr s = .ok p) : Writes s p.2 := by
  induction rs generalizing addr s with
  | nil => cases h; exact .refl _
  | cons r rs ih =>
    obtain ⟨u, hu, h⟩ := bind_eq_ok.1 h
    exact writes_trans (memWrite_writes hu) (ih h)

theorem loadUp_writes {sz : Size} {rs : List Reg} {addr : Word} {s : State} {p : Word × State}
    (h : loadUp sz rs addr s = .ok p) : Writes s p.2 := by
  induction rs generalizing addr s with
  | nil => cases h; exact .refl _
  | cons r rs ih =>
    obtain ⟨v, -, h⟩ := bind_eq_ok.1 h
    obtain ⟨u, hu, h⟩ := bind_eq_ok.1 h
    exact writes_trans (regWrite_writes hu) (ih h)

/-! ## The instructions -/

section
variable {s t : State}

theorem moveBody_writes {sz : Size} {src dst : Operand} (h : moveBody sz src dst s = .ok t) : Writes s t := by
  simp only [moveBody, bind_eq_ok, Except.ok.injEq] at h
  obtain ⟨p, hp, u, hu, rfl⟩ := h
  exact .advance (.flags (writes_trans (readSource_writes hp) (writeDest_writes hu)) _)

theorem moveqBody_writes {src dst : Operand} (h : moveqBody src dst s = .ok t) : Writes s t := by
  simp only [moveqBody, bind_eq_ok, Except.ok.injEq] at h
  obtain ⟨v, -, r, -, u, hu, rfl⟩ := h
  exact .advance (.flags (regWrite_writes hu) _)

theorem arithBody_writes {sz : Size} {f : BitVec sz.bits → BitVec sz.bits → Flags → Computed sz.bits} {src dst : Operand}
    (h : arithBody sz f src dst s = .ok t) : Writes s t := by
  simp only [arithBody, bind_eq_ok, Except.ok.injEq] at h
  obtain ⟨p, hp, u, hu, rfl⟩ := h
  exact .advance (writes_trans (readSource_writes hp) (modifyDest_writes hu))

theorem addrArithBody_writes {sz : Size} {f : Word → Word → Word} {src dst : Operand}
    (h : addrArithBody sz f src dst s = .ok t) : Writes s t := by
  simp only [addrArithBody, bind_eq_ok, Except.ok.injEq] at h
  obtain ⟨p, hp, r, -, rfl⟩ := h
  exact .advance (.reg (readSource_writes hp) _ _ _)

theorem cmpBody_writes {sz : Size} {src dst : Operand} (h : cmpBody sz src dst s = .ok t) : Writes s t := by
  simp only [cmpBody, bind_eq_ok, Except.ok.injEq] at h
  obtain ⟨p, hp, r, -, v, -, rfl⟩ := h
  exact .advance (.flags (readSource_writes hp) _)

theorem tstBody_writes {sz : Size} {dst : Operand} (h : tstBody sz dst s = .ok t) : Writes s t := by
  simp only [tstBody, bind_eq_ok, Except.ok.injEq] at h
  obtain ⟨p, hp, rfl⟩ := h
  exact .advance (.flags (readSource_writes hp) _)

theorem modify_writes {sz : Size} {f : BitVec sz.bits → Flags → Computed sz.bits} {dst : Operand}
    (h : (do let u ← modifyDest dst sz f s; .ok u.advance) = (.ok t : Res State)) : Writes s t := by
  simp only [bind_eq_ok, Except.ok.injEq] at h
  obtain ⟨u, hu, rfl⟩ := h
  exact .advance (modifyDest_writes hu)

theorem logicBody_writes {sz : Size} {f : BitVec sz.bits → BitVec sz.bits → BitVec sz.bits} {src dst : Operand}
    (h : logicBody sz f src dst s = .ok t) : Writes s t := by
  simp only [logicBody, bind_eq_ok, Except.ok.injEq] at h
  obtain ⟨p, hp, u, hu, rfl⟩ := h
  exact .advance (writes_trans (readSource_writes hp) (modifyDest_writes hu))

theorem mulDivBody_writes {f : BitVec 16 → Word → Res MulDivResult} {src dst : Operand}
    (h : mulDivBody f src dst s = .ok t) : Writes s t := by
  simp only [mulDivBody, bind_eq_ok, Except.ok.injEq] at h
  obtain ⟨p, hp, r, -, o, -, rfl⟩ := h
  exact .advance (.flags (.reg (readSource_writes hp) _ _ _) _)

theorem shiftBody_writes {op : ShiftOp} {sz : Size} {args : ShiftArgs} (h : shiftBody op sz args s = .ok t) :
    Writes s t := by
  cases args with
  | counted count dst =>
    obtain ⟨c, -, h⟩ := bind_eq_ok.1 h
    exact modify_writes h
  | memory dst => exact modify_writes h

theorem bitBody_writes {op : BitOp} {sz : Size} {bitnum dst : Operand} (h : bitBody op sz bitnum dst s = .ok t) :
    Writes s t := by
  simp only [bitBody, bind_eq_ok, Except.ok.injEq] at h
  obtain ⟨num, -, l, hl, v, -, u, hu, rfl⟩ := h
  have hz := Writes.flags (resolve_writes hl) { l.2.flags with z := !v.getLsbD (num.toNat % sz.bits) }
  refine .advance ?_
  cases op with
  | tst => cases hu; exact hz
  | chg => obtain ⟨hw, rfl⟩ := writeLoc_eq_ok.1 hu; exact writes_trans hz (putLoc_writes hw _)
  | clr => obtain ⟨hw, rfl⟩ := writeLoc_eq_ok.1 hu; exact writes_trans hz (putLoc_writes hw _)
  | set => obtain ⟨hw, rfl⟩ := writeLoc_eq_ok.1 hu; exact writes_trans hz (putLoc_writes hw _)

theorem branchBody_writes {k : Cond} {target : Operand} (h : branchBody k target s = .ok t) : Writes s t := by
  simp only [branchBody, bind_eq_ok, Except.ok.injEq] at h
  obtain ⟨p, -, rfl⟩ := h
  split
  · exact .jump (.refl s) p
  · exact .advance (.refl s)

theorem braBody_writes {target : Operand} (h : braBody target s = .ok t) : Writes s t := by
  simp only [braBody, bind_eq_ok, Except.ok.injEq] at h
  obtain ⟨p, -, rfl⟩ := h
  exact .jump (.refl s) p

theorem callBody_writes {target : State → Res Word} (h : callBody target s = .ok t) : Writes s t := by
  simp only [callBody, bind_eq_ok, Except.ok.injEq] at h
  obtain ⟨p, -, u, hu, rfl⟩ := h
  exact .pushCall (.jump (push32_writes hu) p) p _

theorem rtsBody_writes (h : rtsBody s = .ok t) : Writes s t := by
  simp only [rtsBody, bind_eq_ok, Except.ok.injEq] at h
  obtain ⟨p, hp, rfl⟩ := h
  exact .popCall (.jump (pop32_writes hp) p.1)

theorem decBranchBody_writes {k : Cond} {counter target : Operand} (h : decBranchBody k counter target s = .ok t) :
    Writes s t := by
  obtain ⟨r, -, h⟩ := bind_eq_ok.1 h
  obtain ⟨p, -, h⟩ := bind_eq_ok.1 h
  split at h
  · cases h; exact .advance (.refl s)
  · obtain ⟨u, hu, h⟩ := bind_eq_ok.1 h
    cases h
    split
    · exact .advance (regWrite_writes hu)
    · exact .jump (regWrite_writes hu) p

theorem setBody_writes {k : Cond} {dst : Operand} (h : setBody k dst s = .ok t) : Writes s t := by
  simp only [setBody, bind_eq_ok, Except.ok.injEq] at h
  obtain ⟨u, hu, rfl⟩ := h
  exact .advance (writeDest_writes hu)

theorem leaBody_writes {src dst : Operand} (h : leaBody src dst s = .ok t) : Writes s t := by
  simp only [leaBody, bind_eq_ok, Except.ok.injEq] at h
  obtain ⟨ea, -, r, -, rfl⟩ := h
  exact .advance (.reg (.refl s) _ _ _)

theorem peaBody_writes {src : Operand} (h : peaBody src s = .ok t) : Writes s t := by
  simp only [peaBody, bind_eq_ok, Except.ok.injEq] at h
  obtain ⟨ea, -, u, hu, rfl⟩ := h
  exact .advance (push32_writes hu)

theorem linkBody_writes {reg disp : Operand} (h : linkBody reg disp s = .ok t) : Writes s t := by
  simp only [linkBody, bind_eq_ok, Except.ok.injEq] at h
  obtain ⟨r, -, v, -, u, hu, rfl⟩ := h
  exact .advance (.reg (.reg (push32_writes hu) _ _ _) _ _ _)

theorem unlkBody_writes {reg : Operand} (h : unlkBody reg s = .ok t) : Writes s t := by
  simp only [unlkBody, bind_eq_ok, Except.ok.injEq] at h
  obtain ⟨r, -, p, hp, rfl⟩ := h
  exact .advance (.reg (writes_trans (.reg (.refl s) _ _ _) (pop32_writes hp)) _ _ _)

theorem movemStoreBody_writes {sz : Size} {reglist : BitVec 16} {dst : Operand}
    (h : movemStoreBody sz reglist dst s = .ok t) : Writes s t := by
  unfold movemStoreBody at h
  split at h <;> simp only [bind_eq_ok, Except.ok.injEq, reduceCtorEq] at h
  · obtain ⟨p, hp, rfl⟩ := h; exact .advance (.reg (storeDown_writes hp) _ _ _)
  · obtain ⟨u, hu, rfl⟩ := h; exact .advance (storeUp_writes hu)
  · obtain ⟨u, hu, rfl⟩ := h; exact .advance (storeUp_writes hu)

theorem movemLoadBody_writes {sz : Size} {src : Operand} {reglist : BitVec 16}
    (h : movemLoadBody sz src reglist s = .ok t) : Writes s t := by
  unfold movemLoadBody at h
  split at h <;> simp only [bind_eq_ok, Except.ok.injEq, reduceCtorEq] at h
  · obtain ⟨p, hp, rfl⟩ := h; exact .advance (.reg (loadUp_writes hp) _ _ _)
  · obtain ⟨p, hp, rfl⟩ := h; exact .advance (loadUp_writes hp)
  · obtain ⟨p, hp, rfl⟩ := h; exact .advance (loadUp_writes hp)

end

/-- What a TRAP that is not a fault does: it fills the slot, or it terminates; `pc` passes it (R290, R299, R316). -/
theorem trapBody_cases {vector : Operand} {s t : State} (h : trapBody vector s = .ok t) :
    (∃ r, r.byteCount ≤ 65535 ∧ t = (s.enterInterrupt r).advance) ∨
      t = State.advance { s with status := .terminated } := by
  simp only [trapBody, bind_eq_ok] at h
  obtain ⟨v, -, h⟩ := h
  split at h
  · simp only [bind_eq_ok, Except.ok.injEq] at h
    obtain ⟨u, hu, rfl⟩ := h
    have hlen : ((s.x (.data 1)).setWidth 16).toNat ≤ 65535 := by have := ((s.x (.data 1)).setWidth 16).isLt; omega
    unfold trapTask at hu
    simp only at hu
    split at hu
    · obtain ⟨bs, hb, hu⟩ := bind_eq_ok.1 hu
      obtain ⟨-, rfl⟩ := memReadBytes_eq_ok.1 hb
      cases hu
      exact .inl ⟨_, by simpa [Interrupt.byteCount] using hlen, rfl⟩
    · obtain ⟨bs, hb, hu⟩ := bind_eq_ok.1 hu
      obtain ⟨-, rfl⟩ := memReadBytes_eq_ok.1 hb
      cases hu
      exact .inl ⟨_, by simpa [Interrupt.byteCount] using hlen, rfl⟩
    all_goals cases hu
    all_goals first | exact .inr rfl | exact .inl ⟨_, by simp [Interrupt.byteCount], rfl⟩
  · cases h

/-- Every instruction but TRAP only writes. -/
theorem bodyOf_writes {i : Instr} {s t : State} (h : bodyOf i s = .ok t) (hi : ∀ v, i.shape ≠ .trap v) :
    Writes s t := by
  refine bodyOf_families
    (P := fun sh body => (∀ v, sh ≠ .trap v) → ∀ s t, body s = .ok t → Writes s t)
    (move := fun _ _ _ _ _ _ => moveBody_writes)
    (moveq := fun _ _ _ _ _ => moveqBody_writes)
    (addSub := fun _ _ _ _ _ _ _ => arithBody_writes)
    (quick := fun _ _ _ _ _ _ _ => arithBody_writes)
    (toAddr := fun _ _ _ _ _ _ _ => addrArithBody_writes)
    (compare := fun _ _ _ _ _ _ => cmpBody_writes)
    (test := fun _ _ _ _ _ => tstBody_writes)
    (neg := fun _ _ _ _ _ => modify_writes)
    (not := fun _ _ _ _ _ => modify_writes)
    (andOr := fun _ _ _ _ _ _ _ => logicBody_writes)
    (eor := fun _ _ _ _ _ _ _ => logicBody_writes)
    (mulDiv := fun _ _ _ _ _ _ _ => mulDivBody_writes)
    (ext := fun _ _ _ _ _ => modify_writes)
    (swap := fun _ _ _ _ => modify_writes)
    (shift := fun _ _ _ _ _ _ => shiftBody_writes)
    (bit := fun _ _ _ _ _ _ _ => bitBody_writes)
    (branch := fun _ _ _ _ _ => branchBody_writes)
    (bra := fun _ _ _ _ => braBody_writes)
    (bsr := fun _ _ _ _ => callBody_writes)
    (jsr := fun _ _ _ _ => callBody_writes)
    (rts := fun _ _ _ => rtsBody_writes)
    (decBranch := fun _ _ _ _ _ _ => decBranchBody_writes)
    (setByte := fun _ _ _ _ _ => setBody_writes)
    (lea := fun _ _ _ _ _ => leaBody_writes)
    (pea := fun _ _ _ _ => peaBody_writes)
    (link := fun _ _ _ _ _ => linkBody_writes)
    (unlk := fun _ _ _ _ => unlkBody_writes)
    (storeRegs := fun _ _ _ _ _ _ => movemStoreBody_writes)
    (loadRegs := fun _ _ _ _ _ _ => movemLoadBody_writes)
    (trap := fun v hv => absurd rfl (hv v)) i hi s t h

/-! ## What follows for every write -/

/-- The control state, the program and the options are as before (R29, R34, R75). -/
theorem writes_control {s t : State} (h : Writes s t) :
    t.status = s.status ∧ t.reason = s.reason ∧ t.reachedBottom = s.reachedBottom ∧ t.curInterrupt = s.curInterrupt ∧
      t.history = s.history ∧ t.undone = s.undone ∧ t.answers = s.answers ∧ t.program = s.program ∧
      t.options = s.options := by
  induction h with
  | refl => simp
  | _ => simp_all [State.storeBytes]

/-- A canonical memory inside its bounds stays so. -/
theorem writes_memory {s t : State} (h : Writes s t) (hwf : s.mem.wf = true)
    (hin : ∀ c ∈ s.mem, c.1 < s.options.memSize) : t.mem.wf = true ∧ ∀ c ∈ t.mem, c.1 < s.options.memSize := by
  induction h with
  | refl => exact ⟨hwf, hin⟩
  | reg _ r v sz ih => simpa using ih
  | flags _ f ih => simpa using ih
  | jump _ p ih => simpa using ih
  | advance _ ih => simpa using ih
  | pushCall _ target sp ih => simpa using ih
  | popCall _ ih => simpa using ih
  | store h addr sz v hb ih =>
    obtain ⟨-, -, -, -, -, -, -, -, ho⟩ := writes_control h
    refine ⟨wf_writeBytes ih.1 _ _, fun c hc => ?_⟩
    rcases mem_writeBytes hc with ⟨-, hlt⟩ | hc
    · have := inBounds_le hb.1 (by cases sz <;> simp)
      rw [bytesOf_length] at hlt
      rw [ho] at this
      omega
    · exact ih.2 c hc
  | bytes h addr bs hb ih =>
    obtain ⟨-, -, -, -, -, -, -, -, ho⟩ := writes_control h
    refine ⟨wf_writeBytes ih.1 _ _, fun c hc => ?_⟩
    rcases mem_writeBytes hc with ⟨hge, hlt⟩ | hc
    · have := inBounds_le hb (by omega)
      rw [ho] at this
      omega
    · exact ih.2 c hc

/-- Registers, flags, memory and `pc` agree. -/
def SameMachine (u s : State) : Prop :=
  u.d = s.d ∧ u.a = s.a ∧ u.flags = s.flags ∧ u.mem = s.mem ∧ u.pc = s.pc

theorem undo_reg {u t : State} {r : Reg} {v : Word} {sz : Size} (h : SameMachine u (t.putReg r v sz)) (p : Size) :
    SameMachine (undoMutation u (.writeRegister r (t.x r) p)) t := by
  obtain ⟨hd, ha, hf, hm, hp⟩ := h
  rw [putReg_pc] at hp
  cases r with
  | data n =>
    refine ⟨?_, ha, hf, hm, hp⟩
    show u.d.set n.val (t.d[n.val]) = t.d
    rw [hd]
    show (t.d.set n.val v).set n.val t.d[n.val] = t.d
    simp
  | addr n =>
    refine ⟨hd, ?_, hf, hm, hp⟩
    show u.a.set n.val (t.a[n.val]) = t.a
    rw [ha]
    show (t.a.set n.val v).set n.val t.a[n.val] = t.a
    simp

/-- The recorded mutations, undone in reverse order, restore registers, flags, memory and `pc` (R326, R327). -/
theorem writes_undone {s t : State} (h : Writes s t) (hwf : s.mem.wf = true)
    (hin : ∀ c ∈ s.mem, c.1 < s.options.memSize) :
    ∃ ms, t.openEntry = s.openEntry ++ ms ∧
      ∀ u, SameMachine u t → SameMachine (ms.reverse.foldl undoMutation u) s := by
  induction h with
  | refl => exact ⟨[], by simp, fun u hu => hu⟩
  | @reg t' h r v sz ih =>
    obtain ⟨ms, ho, hu⟩ := ih
    refine ⟨ms ++ [.writeRegister r (t'.x r) sz], by simp [ho], fun u h' => ?_⟩
    rw [List.reverse_append, List.reverse_singleton, List.singleton_append, List.foldl_cons]
    exact hu _ (undo_reg h' sz)
  | @store t' h addr sz v hb ih =>
    obtain ⟨ms, ho, hu⟩ := ih
    refine ⟨ms ++ [.writeMemory addr (t'.mem.readBytes addr.toNat sz.bytes) sz], by simp [ho], fun u h' => ?_⟩
    rw [List.reverse_append, List.reverse_singleton, List.singleton_append, List.foldl_cons]
    obtain ⟨hd, ha, hf, hm, hp⟩ := h'
    refine hu _ ⟨hd, ha, hf, ?_, hp⟩
    have := writeBytes_restore (writes_memory h hwf hin).1 addr.toNat (bytesOf sz v)
    rw [bytesOf_length] at this
    show u.mem.writeBytes _ _ = _
    rw [hm]
    exact this
  | @bytes t' h addr bs hb ih =>
    obtain ⟨ms, ho, hu⟩ := ih
    refine ⟨ms ++ [.writeMemoryBytes addr (t'.mem.readBytes addr.toNat bs.length)], by simp [State.storeBytes, ho],
      fun u h' => ?_⟩
    rw [List.reverse_append, List.reverse_singleton, List.singleton_append, List.foldl_cons]
    obtain ⟨hd, ha, hf, hm, hp⟩ := h'
    refine hu _ ⟨hd, ha, hf, ?_, hp⟩
    show u.mem.writeBytes _ _ = _
    rw [hm]
    exact writeBytes_restore (writes_memory h hwf hin).1 addr.toNat bs
  | @flags t' h f ih =>
    obtain ⟨ms, ho, hu⟩ := ih
    refine ⟨ms ++ [.writeFlags t'.flags], by simp [ho], fun u h' => ?_⟩
    rw [List.reverse_append, List.reverse_singleton, List.singleton_append, List.foldl_cons]
    exact hu _ ⟨h'.1, h'.2.1, rfl, h'.2.2.2.1, h'.2.2.2.2⟩
  | @jump t' h p ih =>
    obtain ⟨ms, ho, hu⟩ := ih
    refine ⟨ms ++ [.writePc t'.pc], by simp [ho], fun u h' => ?_⟩
    rw [List.reverse_append, List.reverse_singleton, List.singleton_append, List.foldl_cons]
    exact hu _ ⟨h'.1, h'.2.1, h'.2.2.1, h'.2.2.2.1, rfl⟩
  | @advance t' h ih =>
    obtain ⟨ms, ho, hu⟩ := ih
    refine ⟨ms ++ [.writePc t'.pc], by simp [ho], fun u h' => ?_⟩
    rw [List.reverse_append, List.reverse_singleton, List.singleton_append, List.foldl_cons]
    exact hu _ ⟨h'.1, h'.2.1, h'.2.2.1, h'.2.2.2.1, rfl⟩
  | pushCall h target sp ih =>
    obtain ⟨ms, ho, hu⟩ := ih
    exact ⟨ms, by simp [ho], fun u h' => hu u h'⟩
  | popCall h ih =>
    obtain ⟨ms, ho, hu⟩ := ih
    exact ⟨ms, by simp [ho], fun u h' => hu u h'⟩

end Sys2Proof.Machine
end

