-- ==== Sys2Proof/Laws/Step.lean ====
section
/-! SUPPORT. What `exec`, an answer, a step and a construction can do, said once each. -/

namespace Sys2Proof.Machine

/-! ## `exec` -/

/-- An instruction that answers a state has run its pseudocode to the end, or has taken the fault it raised. -/
theorem exec_next {i : Instr} {s t : State} (h : exec i s = .next t) :
    bodyOf i s = .ok t ∨ ∃ f, bodyOf i s = .error (.raise f) ∧ t = takeFault f s := by
  rw [exec_eq_runForm] at h
  rcases runForm_cases i.shape (bodyOf i) s with ⟨-, u, hu, he⟩ | ⟨-, f, hf, he⟩ | ⟨r, he, -⟩ <;> rw [he] at h
  · cases h; exact .inl hu
  · cases h; exact .inr ⟨f, hf, rfl⟩
  · cases h

/-- No instruction stops the machine with a fault: a fault is a next state (log 9). -/
theorem exec_not_fault (i : Instr) (s : State) (f : Fault) : exec i s ≠ .fault f := by
  rw [exec_eq_runForm]
  rcases runForm_cases i.shape (bodyOf i) s with ⟨-, u, -, he⟩ | ⟨-, g, -, he⟩ | ⟨r, he, -⟩ <;> rw [he] <;> exact nofun

/-- An admitted instruction whose pseudocode ends answers the state it computed. -/
theorem exec_of_body {i : Instr} {s t : State} (h : i.wellFormed = true) (hb : bodyOf i s = .ok t) :
    exec i s = .next t := by
  rw [exec_eq_runForm]; exact runForm_ok h hb

/-! ## The answer to an interrupt -/

/-- The result of an answer only writes, or raises AddressOutOfBounds (R303, R304). -/
theorem applyResult_cases (r : InterruptResult) (s : State) :
    (∃ t, applyResult r s = .ok t ∧ Writes s t) ∨ applyResult r s = .error (.raise .addressOutOfBounds) := by
  cases r with
  | readKeyboardString bs =>
    match hw : memWriteBytes (s.x (.addr 1)) (bs.take Config.keyboardLimit) s with
    | .error e =>
      obtain ⟨-, rfl⟩ := memWriteBytes_error hw
      exact .inr (by simp [applyResult, hw, bind, Except.bind])
    | .ok u =>
      obtain ⟨hb, rfl⟩ := memWriteBytes_eq_ok.1 hw
      refine .inl ⟨(s.storeBytes (s.x (.addr 1)) (bs.take Config.keyboardLimit)).putReg (.data 1)
        (mergeReg (.data 1) .W (s.x (.data 1)) (BitVec.ofNat 16 (bs.take Config.keyboardLimit).length)) .W, ?_,
        .reg (.bytes (.refl s) _ _ hb) _ _ _⟩
      simp only [applyResult, hw, bind, Except.bind]
      rfl
  | readNumber n => exact .inl ⟨_, rfl, .reg (.refl s) _ _ _⟩
  | readChar c => exact .inl ⟨_, rfl, .reg (.refl s) _ _ _⟩
  | getTime t => exact .inl ⟨_, rfl, .reg (.refl s) _ _ _⟩
  | displayStringWithCRLF => exact .inl ⟨s, rfl, .refl s⟩
  | displayStringWithoutCRLF => exact .inl ⟨s, rfl, .refl s⟩
  | displayNumber => exact .inl ⟨s, rfl, .refl s⟩
  | displayChar => exact .inl ⟨s, rfl, .refl s⟩

/-- Everything `answerInterrupt` can do: accept, fault, or reject and change nothing (R302, R304, R305). -/
theorem answerInterrupt_cases (r : InterruptResult) (s : State) :
    (∃ record t, s.status = .interrupt ∧ s.curInterrupt = some record ∧ tagMatches r record = true ∧
        applyResult r s = .ok t ∧ Writes s t ∧ answerInterrupt r s = (finishAnswer s t, .accepted)) ∨
      (∃ record, s.status = .interrupt ∧ s.curInterrupt = some record ∧ tagMatches r record = true ∧
        applyResult r s = .error (.raise .addressOutOfBounds) ∧
        answerInterrupt r s = (takeFault .addressOutOfBounds s, .faulted .addressOutOfBounds)) ∨
      (∃ reply, answerInterrupt r s = (s, reply)) := by
  unfold answerInterrupt
  split
  · next hs =>
    split
    · exact .inr (.inr ⟨_, rfl⟩)
    · next record hr =>
      split
      · next ht =>
        rcases applyResult_cases r s with ⟨t, ha, hw⟩ | ha <;> rw [ha]
        · exact .inl ⟨record, t, hs, hr, ht, rfl, hw, rfl⟩
        · exact .inr (.inl ⟨record, hs, hr, ht, rfl, rfl⟩)
      · exact .inr (.inr ⟨_, rfl⟩)
  · exact .inr (.inr ⟨_, rfl⟩)

/-! ## The step -/

/-- Everything a step that answers a state can do. -/
theorem step_cases {s t : State} (h : step s = .next t) :
    s.undone = false ∧
      ((s.status = .terminated ∧ t = s) ∨ (s.status = .terminatedWithException ∧ t = s) ∨
        (s.status = .interrupt ∧ s.answers = [] ∧ t = takeFault .unansweredInterrupt s) ∨
        (∃ r rest, s.status = .interrupt ∧ s.answers = r :: rest ∧
          t = (answerInterrupt r { s with answers := rest }).1) ∨
        (s.status = .running ∧ fetch s = none ∧ t = takeFault .illegalInstruction s) ∨
        (∃ line, s.status = .running ∧ fetch s = some line ∧ decode line.entry = .error .noInstruction ∧
          t = closeEntry s.pc line.lineIndex (takeFault .illegalInstruction s)) ∨
        (∃ line i u, s.status = .running ∧ fetch s = some line ∧ decode line.entry = .ok i ∧ exec i s = .next u ∧
          t = endCheck (closeEntry s.pc line.lineIndex u))) := by
  unfold step hostStep at h
  split at h
  · cases h
  · next hu =>
    refine ⟨by simpa using hu, ?_⟩
    split at h
    · next r rest hs ha => cases h; exact .inr (.inr (.inr (.inl ⟨r, rest, hs, ha, rfl⟩)))
    · next hno =>
      unfold engineStep at h
      split at h
      · next hs => cases h; exact .inl ⟨hs, rfl⟩
      · next hs => cases h; exact .inr (.inl ⟨hs, rfl⟩)
      · next hs =>
        cases h
        refine .inr (.inr (.inl ⟨hs, ?_, rfl⟩))
        cases ha : s.answers with
        | nil => rfl
        | cons r rest => exact absurd ha (hno r rest hs)
      · next hs =>
        refine .inr (.inr (.inr (.inr ?_)))
        split at h
        · next hf => cases h; exact .inl ⟨hs, hf, rfl⟩
        · next line hf =>
          refine .inr ?_
          unfold runLine at h
          split at h
          · next hd => cases h; exact .inl ⟨line, hs, hf, hd, rfl⟩
          · cases h
          · next i hd =>
            split at h
            · next u hx => cases h; exact .inr ⟨line, i, u, hs, hf, hd, hx, rfl⟩
            · cases h
            · cases h

/-- A step whose entry decodes runs it, closes the history entry and checks for the end (R130). -/
theorem step_runs {s u : State} {line : InstructionLine} {i : Instr} (hu : s.undone = false)
    (hs : s.status = .running) (hf : fetch s = some line) (hd : decode line.entry = .ok i) (hx : exec i s = .next u) :
    step s = .next (endCheck (closeEntry s.pc line.lineIndex u)) := by
  simp [step, hostStep, hu, engineStep, hs, hf, runLine, hd, hx]

/-! ## Construction -/

theorem loadCells_wf {cells : List Host.Cell} {m : Memory} (h : m.wf = true) : (loadCells cells m).wf = true := by
  unfold loadCells
  induction cells generalizing m with
  | nil => exact h
  | cons c cells ih => exact ih (wf_writeByte h c.1 c.2)

theorem loadCells_inside {cells : List Host.Cell} {m : Memory} {n : Nat} (hc : ∀ c ∈ cells, c.1 < n)
    (h : ∀ c ∈ m, c.1 < n) : ∀ c ∈ loadCells cells m, c.1 < n := by
  unfold loadCells
  induction cells generalizing m with
  | nil => exact h
  | cons c cells ih =>
    refine ih (fun d hd => hc d (by simp [hd])) fun d hd => ?_
    rcases mem_writeByte hd with he | hd
    · rw [he]; exact hc c (by simp)
    · exact h d hd

/-- `State.reset` is the construction of the empty program with the default options (log 1, 2). -/
theorem boot_empty : boot { program := { lines := [], labels := [] }, image := [] } [] Options.default = some State.reset := by
  decide

end Sys2Proof.Machine
end

