-- ==== Sys2Proof/Laws/Frames.lean ====
section
/-! SUPPORT. The results of the shared operand work as the statements name them (`Reads`, `Wrote`, `WroteReg`,
`WroteNothing`, `OnlyChanges`), and the pseudocode behind each selector of Syntax.lean. -/

namespace Sys2Proof.Machine

/-! ## Composing frames -/

theorem onlyChanges_refl (s : State) : OnlyChanges s s [] noByte :=
  ⟨fun _ _ => rfl, fun _ _ => rfl, rfl, rfl, rfl, rfl, rfl, rfl, rfl, rfl, rfl⟩

theorem onlyChanges_trans {s t u : State} {rs rs' : List Reg} {bs bs' : Nat → Prop} (h : OnlyChanges s t rs bs)
    (h' : OnlyChanges t u rs' bs') : OnlyChanges s u (rs ++ rs') (fun b => bs b ∨ bs' b) :=
  ⟨fun r hr => (h'.regs r fun hm => hr (by simp [hm])).trans (h.regs r fun hm => hr (by simp [hm])),
    fun b hb => (h'.bytes b fun hm => hb (.inr hm)).trans (h.bytes b fun hm => hb (.inl hm)),
    h'.status.trans h.status, h'.reason.trans h.reason, h'.reachedBottom.trans h.reachedBottom,
    h'.curInterrupt.trans h.curInterrupt, h'.history.trans h.history, h'.undone.trans h.undone,
    h'.answers.trans h.answers, h'.program.trans h.program, h'.options.trans h.options⟩

theorem onlyChanges_mono {s t : State} {rs rs' : List Reg} {bs bs' : Nat → Prop} (h : OnlyChanges s t rs bs)
    (hr : ∀ r ∈ rs, r ∈ rs') (hb : ∀ b, bs b → bs' b) : OnlyChanges s t rs' bs' :=
  ⟨fun r hm => h.regs r fun hn => hm (hr r hn), fun b hm => h.bytes b fun hn => hm (hb b hn), h.status, h.reason,
    h.reachedBottom, h.curInterrupt, h.history, h.undone, h.answers, h.program, h.options⟩

theorem onlyChanges_putReg (s : State) (r : Reg) (v : Word) (sz : Size) : OnlyChanges s (s.putReg r v sz) [r] noByte := by
  refine ⟨fun r' hr => ?_, fun _ _ => by simp, ?_, ?_, ?_, ?_, ?_, ?_, ?_, ?_, ?_⟩ <;> simp
  intro h; simp [h] at hr

theorem onlyChanges_storeAt (s : State) (addr : Word) (sz : Size) (v : BitVec sz.bits) :
    OnlyChanges s (s.storeAt addr sz v) [] (within addr sz.bytes) :=
  putLoc_onlyChanges s (.mem addr) sz v

theorem onlyChanges_putFlags (s : State) (f : Flags) : OnlyChanges s (s.putFlags f) [] noByte := by
  constructor <;> simp

theorem onlyChanges_jump (s : State) (p : Word) : OnlyChanges s (s.jump p) [] noByte := by
  constructor <;> simp

theorem onlyChanges_advance (s : State) : OnlyChanges s s.advance [] noByte := by
  constructor <;> simp

theorem onlyChanges_pushCall (s : State) (p sp : Word) : OnlyChanges s (s.pushCall p sp) [] noByte := by
  constructor <;> simp

theorem onlyChanges_popCall (s : State) : OnlyChanges s s.popCall [] noByte := by
  constructor <;> simp

/-! ## Operand work -/

theorem readSource_of_reads {op : Operand} {sz : Size} {s u : State} {l : Loc} {v : BitVec sz.bits}
    (h : Reads op sz s l u v) : readSource op sz s = .ok (v, u) :=
  readSource_eq_ok.2 ⟨l, h.1, h.2⟩

theorem writeDest_of {op : Operand} {sz : Size} {s u : State} {l : Loc} (h : resolve op sz s = .ok (l, u))
    (hw : l.writable sz u) (v : BitVec sz.bits) : writeDest op sz v s = .ok (u.putLoc l sz v) :=
  writeDest_eq_ok.2 ⟨l, u, h, hw, rfl⟩

theorem reads_writable {op : Operand} {sz : Size} {s u : State} {l : Loc} {v : BitVec sz.bits} (hi : op.isImm = false)
    (h : Reads op sz s l u v) : l.writable sz u :=
  writable_of_readLoc h.2 (resolve_not_imm hi h.1)

theorem modifyDest_of {op : Operand} {sz : Size} {s u : State} {l : Loc} {v : BitVec sz.bits} (hi : op.isImm = false)
    (h : Reads op sz s l u v) (f : BitVec sz.bits → Flags → Computed sz.bits) :
    modifyDest op sz f s = .ok ((u.putLoc l sz (f v u.flags).value).putFlags (f v u.flags).flags) :=
  modifyDest_eq_ok.2 ⟨l, u, v, h.1, h.2, reads_writable hi h, rfl⟩

theorem resolve_flags {op : Operand} {sz : Size} {s u : State} {l : Loc} (h : resolve op sz s = .ok (l, u)) :
    u.flags = s.flags := (resolve_onlyChanges h).2.2.1

/-- Reading a data register resolves to it and leaves the state. -/
theorem reads_dn (n : Fin 8) (sz : Size) (s : State) :
    Reads (.register (.data n)) sz s (.reg (.data n)) s ((s.x (.data n)).setWidth sz.bits) :=
  ⟨rfl, rfl⟩

/-! ## Results -/

/-- A location written after two operands were resolved, flags written, `pc` advanced. -/
theorem wrote_two {src dst : Operand} {sz : Size} {s u w : State} {ls ld : Loc} (hs : resolve src sz s = .ok (ls, u))
    (hd : resolve dst sz u = .ok (ld, w)) (hw : ld.writable sz w) (v : BitVec sz.bits) (f : Flags) :
    Wrote s w ((w.putLoc ld sz v).putFlags f).advance (src.steps ++ dst.steps) ld sz v := by
  obtain ⟨os, ms, fs, ps, cs⟩ := resolve_onlyChanges hs
  obtain ⟨od, md, fd, pd, cd⟩ := resolve_onlyChanges hd
  have hp := putLoc_onlyChanges w ld sz v
  have hh := putLoc_holds hw v
  refine ⟨?_, fun r hr => ?_, ?_, ?_, ?_⟩
  · cases ld <;> simp only [Loc.holds, advance_x, putFlags_x, advance_mem, putFlags_mem] at hh ⊢ <;> exact hh
  · simpa using hp.regs r hr
  · refine onlyChanges_mono (onlyChanges_trans (onlyChanges_trans os od) (onlyChanges_trans hp
      (onlyChanges_trans (onlyChanges_putFlags _ f) (onlyChanges_advance _)))) ?_ ?_
    · intro r; simp
    · intro b; simp [noByte]
  · simp [pd, ps]
  · simp [cd, cs]

/-- A location written after one operand was resolved. -/
theorem wrote_one {dst : Operand} {sz : Size} {s w : State} {ld : Loc} (hd : resolve dst sz s = .ok (ld, w))
    (hw : ld.writable sz w) (v : BitVec sz.bits) (f : Flags) :
    Wrote s w ((w.putLoc ld sz v).putFlags f).advance dst.steps ld sz v :=
  wrote_two (src := .immediate 0) (ls := .imm 0) rfl hd hw v f

/-- A register written after one operand was resolved. -/
theorem wroteReg_one {src : Operand} {sz : Size} {s u : State} {ls : Loc} (hs : resolve src sz s = .ok (ls, u)) (r : Reg)
    (v : Word) (p : Size) (f : Flags) : WroteReg s u ((u.putReg r v p).putFlags f).advance src.steps r v := by
  obtain ⟨os, ms, fs, ps, cs⟩ := resolve_onlyChanges hs
  refine ⟨by simp, fun r' hr => by simp [hr], ?_, ?_, ?_⟩
  · refine onlyChanges_mono (onlyChanges_trans os (onlyChanges_trans (onlyChanges_putReg u r v p)
      (onlyChanges_trans (onlyChanges_putFlags _ f) (onlyChanges_advance _)))) ?_ ?_
    · intro r'; simp
    · intro b; simp [noByte]
  · simp [ps]
  · simp [cs]

/-- A register written, no flag. -/
theorem wroteReg_quiet {src : Operand} {sz : Size} {s u : State} {ls : Loc} (hs : resolve src sz s = .ok (ls, u))
    (r : Reg) (v : Word) (p : Size) : WroteReg s u (u.putReg r v p).advance src.steps r v := by
  obtain ⟨os, ms, fs, ps, cs⟩ := resolve_onlyChanges hs
  refine ⟨by simp, fun r' hr => by simp [hr], ?_, ?_, ?_⟩
  · refine onlyChanges_mono (onlyChanges_trans os (onlyChanges_trans (onlyChanges_putReg u r v p)
      (onlyChanges_advance _))) ?_ ?_
    · intro r'; simp
    · intro b; simp [noByte]
  · simp [ps]
  · simp [cs]

/-- Nothing written but the flags after one operand was resolved. -/
theorem wroteNothing_one {src : Operand} {sz : Size} {s u : State} {ls : Loc} (hs : resolve src sz s = .ok (ls, u))
    (f : Flags) : WroteNothing s u (u.putFlags f).advance src.steps := by
  obtain ⟨os, ms, fs, ps, cs⟩ := resolve_onlyChanges hs
  refine ⟨fun r => by simp, ?_, ?_, ?_⟩
  · refine onlyChanges_mono (onlyChanges_trans os (onlyChanges_trans (onlyChanges_putFlags _ f)
      (onlyChanges_advance _))) ?_ ?_
    · intro r'; simp
    · intro b; simp [noByte]
  · simp [ps]
  · simp [cs]

/-! ## The pseudocode behind the selectors -/

theorem exec_move (sz : Size) (src dst : Operand) (s : State) :
    exec (Instr.move sz src dst) s = runForm (.move sz src dst) (moveBody sz src dst) s := by cases sz <;> rfl

theorem exec_add (sz : Size) (src dst : Operand) (s : State) :
    exec (Instr.add sz src dst) s = runForm (.addSub sz src dst) (arithBody sz addCompute src dst) s := by
  cases sz <;> rfl

theorem exec_addq (sz : Size) (src dst : Operand) (s : State) :
    exec (Instr.addq sz src dst) s = runForm (.quick sz src dst) (arithBody sz addCompute src dst) s := by
  cases sz <;> rfl

theorem exec_sub (sz : Size) (src dst : Operand) (s : State) :
    exec (Instr.sub sz src dst) s = runForm (.addSub sz src dst) (arithBody sz subCompute src dst) s := by
  cases sz <;> rfl

theorem exec_subq (sz : Size) (src dst : Operand) (s : State) :
    exec (Instr.subq sz src dst) s = runForm (.quick sz src dst) (arithBody sz subCompute src dst) s := by
  cases sz <;> rfl

theorem exec_adda {sz : Size} (h : sz ≠ .B) (src dst : Operand) (s : State) :
    exec (Instr.adda sz src dst) s
      = runForm (.toAddr sz src dst) (addrArithBody sz (fun a b => a + b) src dst) s := by
  cases sz
  · exact absurd rfl h
  all_goals rfl

theorem exec_suba {sz : Size} (h : sz ≠ .B) (src dst : Operand) (s : State) :
    exec (Instr.suba sz src dst) s
      = runForm (.toAddr sz src dst) (addrArithBody sz (fun a b => a - b) src dst) s := by
  cases sz
  · exact absurd rfl h
  all_goals rfl

theorem exec_cmp (sz : Size) (src dst : Operand) (s : State) :
    exec (Instr.cmp sz src dst) s = runForm (.compare sz src dst) (cmpBody sz src dst) s := by cases sz <;> rfl

theorem exec_tst (sz : Size) (dst : Operand) (s : State) :
    exec (Instr.tst sz dst) s = runForm (.unary sz dst) (tstBody sz dst) s := by cases sz <;> rfl

theorem exec_neg (sz : Size) (dst : Operand) (s : State) :
    exec (Instr.neg sz dst) s = runForm (.unary sz dst) (negBody sz dst) s := by cases sz <;> rfl

theorem exec_and (sz : Size) (src dst : Operand) (s : State) :
    exec (Instr.and sz src dst) s = runForm (.andOr sz src dst) (logicBody sz (fun a b => a &&& b) src dst) s := by
  cases sz <;> rfl

theorem exec_or (sz : Size) (src dst : Operand) (s : State) :
    exec (Instr.or sz src dst) s = runForm (.andOr sz src dst) (logicBody sz (fun a b => a ||| b) src dst) s := by
  cases sz <;> rfl

theorem exec_eor (sz : Size) (src dst : Operand) (s : State) :
    exec (Instr.eor sz src dst) s = runForm (.eor sz src dst) (logicBody sz (fun a b => a ^^^ b) src dst) s := by
  cases sz <;> rfl

theorem exec_not (sz : Size) (dst : Operand) (s : State) :
    exec (Instr.not sz dst) s = runForm (.unary sz dst) (notBody sz dst) s := by cases sz <;> rfl

theorem exec_shifted (op : ShiftOp) (sz : Size) (args : ShiftArgs) (s : State) :
    exec (Instr.shifted op sz args) s = runForm (.shift sz args) (shiftBody op sz args) s := by
  cases op <;> cases sz <;> rfl

theorem exec_bitOnReg (op : BitOp) (bitnum dst : Operand) (s : State) :
    exec (Instr.bitOnReg op bitnum dst) s = runForm (.bit .L bitnum dst) (bitBody op .L bitnum dst) s := by
  cases op <;> rfl

theorem exec_bitOnByte (op : BitOp) (bitnum dst : Operand) (s : State) :
    exec (Instr.bitOnByte op bitnum dst) s = runForm (.bit .B bitnum dst) (bitBody op .B bitnum dst) s := by
  cases op <;> rfl

theorem exec_branchOn (k : Cond) (target : Operand) (s : State) :
    exec (Instr.branchOn k target) s = runForm (.branch target) (branchBody k target) s := by cases k <;> rfl

theorem exec_decBranchOn (k : Cond) (counter target : Operand) (s : State) :
    exec (Instr.decBranchOn k counter target) s
      = runForm (.decBranch counter target) (decBranchBody k counter target) s := by cases k <;> rfl

theorem exec_setOn (k : Cond) (dst : Operand) (s : State) :
    exec (Instr.setOn k dst) s = runForm (.setByte dst) (setBody k dst) s := by cases k <;> rfl

theorem exec_movemStore {sz : Size} (h : sz ≠ .B) (l : BitVec 16) (dst : Operand) (s : State) :
    exec (Instr.movemStore sz l dst) s = runForm (.storeRegs sz l dst) (movemStoreBody sz l dst) s := by
  cases sz
  · exact absurd rfl h
  all_goals rfl

theorem exec_movemLoad {sz : Size} (h : sz ≠ .B) (l : BitVec 16) (src : Operand) (s : State) :
    exec (Instr.movemLoad sz src l) s = runForm (.loadRegs sz src l) (movemLoadBody sz src l) s := by
  cases sz
  · exact absurd rfl h
  all_goals rfl

end Sys2Proof.Machine
end

