-- ==== Sys2Proof/Laws/PerInstr.lean ====
section
/-! SUPPORT. The statement made of every instruction, one lemma a constructor: decoding its encoding gives it back. -/

namespace Sys2Proof.Laws.RoundTrip

/-- Decoding the encoding of an instruction gives the instruction. -/
def Statement (i : Instr) : Prop := decode (encode i) = .ok i

theorem decode_of {e : Entry} {o : Opcode} {i : Instr} (w : BitVec 16) (hw : e.descriptor = w)
    (ho : opcode w = some o) (hi : o.withOperands e.operands e.reglist = some i) : decode e = .ok i := by
  subst hw; simp only [decode, ho, hi]

theorem moveB (src : Operand) (dst : Operand) : Statement (.moveB src dst) := decode_of 0x0100#16 rfl rfl rfl
theorem moveW (src : Operand) (dst : Operand) : Statement (.moveW src dst) := decode_of 0x0140#16 rfl rfl rfl
theorem moveL (src : Operand) (dst : Operand) : Statement (.moveL src dst) := decode_of 0x0180#16 rfl rfl rfl
theorem moveqL (src : Operand) (dst : Operand) : Statement (.moveqL src dst) := decode_of 0x0280#16 rfl rfl rfl
theorem addB (src : Operand) (dst : Operand) : Statement (.addB src dst) := decode_of 0x0300#16 rfl rfl rfl
theorem addW (src : Operand) (dst : Operand) : Statement (.addW src dst) := decode_of 0x0340#16 rfl rfl rfl
theorem addL (src : Operand) (dst : Operand) : Statement (.addL src dst) := decode_of 0x0380#16 rfl rfl rfl
theorem addqB (src : Operand) (dst : Operand) : Statement (.addqB src dst) := decode_of 0x0400#16 rfl rfl rfl
theorem addqW (src : Operand) (dst : Operand) : Statement (.addqW src dst) := decode_of 0x0440#16 rfl rfl rfl
theorem addqL (src : Operand) (dst : Operand) : Statement (.addqL src dst) := decode_of 0x0480#16 rfl rfl rfl
theorem addaW (src : Operand) (dst : Operand) : Statement (.addaW src dst) := decode_of 0x0540#16 rfl rfl rfl
theorem addaL (src : Operand) (dst : Operand) : Statement (.addaL src dst) := decode_of 0x0580#16 rfl rfl rfl
theorem subB (src : Operand) (dst : Operand) : Statement (.subB src dst) := decode_of 0x0600#16 rfl rfl rfl
theorem subW (src : Operand) (dst : Operand) : Statement (.subW src dst) := decode_of 0x0640#16 rfl rfl rfl
theorem subL (src : Operand) (dst : Operand) : Statement (.subL src dst) := decode_of 0x0680#16 rfl rfl rfl
theorem subqB (src : Operand) (dst : Operand) : Statement (.subqB src dst) := decode_of 0x0700#16 rfl rfl rfl
theorem subqW (src : Operand) (dst : Operand) : Statement (.subqW src dst) := decode_of 0x0740#16 rfl rfl rfl
theorem subqL (src : Operand) (dst : Operand) : Statement (.subqL src dst) := decode_of 0x0780#16 rfl rfl rfl
theorem subaW (src : Operand) (dst : Operand) : Statement (.subaW src dst) := decode_of 0x0840#16 rfl rfl rfl
theorem subaL (src : Operand) (dst : Operand) : Statement (.subaL src dst) := decode_of 0x0880#16 rfl rfl rfl
theorem cmpB (src : Operand) (dst : Operand) : Statement (.cmpB src dst) := decode_of 0x0900#16 rfl rfl rfl
theorem cmpW (src : Operand) (dst : Operand) : Statement (.cmpW src dst) := decode_of 0x0940#16 rfl rfl rfl
theorem cmpL (src : Operand) (dst : Operand) : Statement (.cmpL src dst) := decode_of 0x0980#16 rfl rfl rfl
theorem tstB (dst : Operand) : Statement (.tstB dst) := decode_of 0x0A00#16 rfl rfl rfl
theorem tstW (dst : Operand) : Statement (.tstW dst) := decode_of 0x0A40#16 rfl rfl rfl
theorem tstL (dst : Operand) : Statement (.tstL dst) := decode_of 0x0A80#16 rfl rfl rfl
theorem mulsW (src : Operand) (dst : Operand) : Statement (.mulsW src dst) := decode_of 0x0B40#16 rfl rfl rfl
theorem muluW (src : Operand) (dst : Operand) : Statement (.muluW src dst) := decode_of 0x0C40#16 rfl rfl rfl
theorem divsW (src : Operand) (dst : Operand) : Statement (.divsW src dst) := decode_of 0x0D40#16 rfl rfl rfl
theorem divuW (src : Operand) (dst : Operand) : Statement (.divuW src dst) := decode_of 0x0E40#16 rfl rfl rfl
theorem andB (src : Operand) (dst : Operand) : Statement (.andB src dst) := decode_of 0x0F00#16 rfl rfl rfl
theorem andW (src : Operand) (dst : Operand) : Statement (.andW src dst) := decode_of 0x0F40#16 rfl rfl rfl
theorem andL (src : Operand) (dst : Operand) : Statement (.andL src dst) := decode_of 0x0F80#16 rfl rfl rfl
theorem orB (src : Operand) (dst : Operand) : Statement (.orB src dst) := decode_of 0x1000#16 rfl rfl rfl
theorem orW (src : Operand) (dst : Operand) : Statement (.orW src dst) := decode_of 0x1040#16 rfl rfl rfl
theorem orL (src : Operand) (dst : Operand) : Statement (.orL src dst) := decode_of 0x1080#16 rfl rfl rfl
theorem eorB (src : Operand) (dst : Operand) : Statement (.eorB src dst) := decode_of 0x1100#16 rfl rfl rfl
theorem eorW (src : Operand) (dst : Operand) : Statement (.eorW src dst) := decode_of 0x1140#16 rfl rfl rfl
theorem eorL (src : Operand) (dst : Operand) : Statement (.eorL src dst) := decode_of 0x1180#16 rfl rfl rfl
theorem notB (dst : Operand) : Statement (.notB dst) := decode_of 0x1200#16 rfl rfl rfl
theorem notW (dst : Operand) : Statement (.notW dst) := decode_of 0x1240#16 rfl rfl rfl
theorem notL (dst : Operand) : Statement (.notL dst) := decode_of 0x1280#16 rfl rfl rfl
theorem aslB (args : ShiftArgs) : Statement (.aslB args) := by
  cases args <;> exact decode_of 0x1300#16 rfl rfl rfl
theorem aslW (args : ShiftArgs) : Statement (.aslW args) := by
  cases args <;> exact decode_of 0x1340#16 rfl rfl rfl
theorem aslL (args : ShiftArgs) : Statement (.aslL args) := by
  cases args <;> exact decode_of 0x1380#16 rfl rfl rfl
theorem asrB (args : ShiftArgs) : Statement (.asrB args) := by
  cases args <;> exact decode_of 0x1400#16 rfl rfl rfl
theorem asrW (args : ShiftArgs) : Statement (.asrW args) := by
  cases args <;> exact decode_of 0x1440#16 rfl rfl rfl
theorem asrL (args : ShiftArgs) : Statement (.asrL args) := by
  cases args <;> exact decode_of 0x1480#16 rfl rfl rfl
theorem lslB (args : ShiftArgs) : Statement (.lslB args) := by
  cases args <;> exact decode_of 0x1500#16 rfl rfl rfl
theorem lslW (args : ShiftArgs) : Statement (.lslW args) := by
  cases args <;> exact decode_of 0x1540#16 rfl rfl rfl
theorem lslL (args : ShiftArgs) : Statement (.lslL args) := by
  cases args <;> exact decode_of 0x1580#16 rfl rfl rfl
theorem lsrB (args : ShiftArgs) : Statement (.lsrB args) := by
  cases args <;> exact decode_of 0x1600#16 rfl rfl rfl
theorem lsrW (args : ShiftArgs) : Statement (.lsrW args) := by
  cases args <;> exact decode_of 0x1640#16 rfl rfl rfl
theorem lsrL (args : ShiftArgs) : Statement (.lsrL args) := by
  cases args <;> exact decode_of 0x1680#16 rfl rfl rfl
theorem rolB (args : ShiftArgs) : Statement (.rolB args) := by
  cases args <;> exact decode_of 0x1700#16 rfl rfl rfl
theorem rolW (args : ShiftArgs) : Statement (.rolW args) := by
  cases args <;> exact decode_of 0x1740#16 rfl rfl rfl
theorem rolL (args : ShiftArgs) : Statement (.rolL args) := by
  cases args <;> exact decode_of 0x1780#16 rfl rfl rfl
theorem rorB (args : ShiftArgs) : Statement (.rorB args) := by
  cases args <;> exact decode_of 0x1800#16 rfl rfl rfl
theorem rorW (args : ShiftArgs) : Statement (.rorW args) := by
  cases args <;> exact decode_of 0x1840#16 rfl rfl rfl
theorem rorL (args : ShiftArgs) : Statement (.rorL args) := by
  cases args <;> exact decode_of 0x1880#16 rfl rfl rfl
theorem negB (dst : Operand) : Statement (.negB dst) := decode_of 0x1900#16 rfl rfl rfl
theorem negW (dst : Operand) : Statement (.negW dst) := decode_of 0x1940#16 rfl rfl rfl
theorem negL (dst : Operand) : Statement (.negL dst) := decode_of 0x1980#16 rfl rfl rfl
theorem extW (dst : Operand) : Statement (.extW dst) := decode_of 0x1A40#16 rfl rfl rfl
theorem extL (dst : Operand) : Statement (.extL dst) := decode_of 0x1A80#16 rfl rfl rfl
theorem swapW (dst : Operand) : Statement (.swapW dst) := decode_of 0x1B40#16 rfl rfl rfl
theorem btstL (bitnum : Operand) (dst : Operand) : Statement (.btstL bitnum dst) := decode_of 0x1C80#16 rfl rfl rfl
theorem btstB (bitnum : Operand) (dst : Operand) : Statement (.btstB bitnum dst) := decode_of 0x1C00#16 rfl rfl rfl
theorem bclrL (bitnum : Operand) (dst : Operand) : Statement (.bclrL bitnum dst) := decode_of 0x1D80#16 rfl rfl rfl
theorem bclrB (bitnum : Operand) (dst : Operand) : Statement (.bclrB bitnum dst) := decode_of 0x1D00#16 rfl rfl rfl
theorem bsetL (bitnum : Operand) (dst : Operand) : Statement (.bsetL bitnum dst) := decode_of 0x1E80#16 rfl rfl rfl
theorem bsetB (bitnum : Operand) (dst : Operand) : Statement (.bsetB bitnum dst) := decode_of 0x1E00#16 rfl rfl rfl
theorem bchgL (bitnum : Operand) (dst : Operand) : Statement (.bchgL bitnum dst) := decode_of 0x1F80#16 rfl rfl rfl
theorem bchgB (bitnum : Operand) (dst : Operand) : Statement (.bchgB bitnum dst) := decode_of 0x1F00#16 rfl rfl rfl
theorem bt (target : Operand) : Statement (.bt target) := decode_of 0x20C0#16 rfl rfl rfl
theorem bf (target : Operand) : Statement (.bf target) := decode_of 0x20C1#16 rfl rfl rfl
theorem bhi (target : Operand) : Statement (.bhi target) := decode_of 0x20C2#16 rfl rfl rfl
theorem bls (target : Operand) : Statement (.bls target) := decode_of 0x20C3#16 rfl rfl rfl
theorem bcc (target : Operand) : Statement (.bcc target) := decode_of 0x20C4#16 rfl rfl rfl
theorem bcs (target : Operand) : Statement (.bcs target) := decode_of 0x20C5#16 rfl rfl rfl
theorem bne (target : Operand) : Statement (.bne target) := decode_of 0x20C6#16 rfl rfl rfl
theorem beq (target : Operand) : Statement (.beq target) := decode_of 0x20C7#16 rfl rfl rfl
theorem bvc (target : Operand) : Statement (.bvc target) := decode_of 0x20C8#16 rfl rfl rfl
theorem bvs (target : Operand) : Statement (.bvs target) := decode_of 0x20C9#16 rfl rfl rfl
theorem bpl (target : Operand) : Statement (.bpl target) := decode_of 0x20CA#16 rfl rfl rfl
theorem bmi (target : Operand) : Statement (.bmi target) := decode_of 0x20CB#16 rfl rfl rfl
theorem bge (target : Operand) : Statement (.bge target) := decode_of 0x20CC#16 rfl rfl rfl
theorem blt (target : Operand) : Statement (.blt target) := decode_of 0x20CD#16 rfl rfl rfl
theorem bgt (target : Operand) : Statement (.bgt target) := decode_of 0x20CE#16 rfl rfl rfl
theorem ble (target : Operand) : Statement (.ble target) := decode_of 0x20CF#16 rfl rfl rfl
theorem bra (target : Operand) : Statement (.bra target) := decode_of 0x21C0#16 rfl rfl rfl
theorem bsr (target : Operand) : Statement (.bsr target) := decode_of 0x22C0#16 rfl rfl rfl
theorem jsr (target : Operand) : Statement (.jsr target) := decode_of 0x23C0#16 rfl rfl rfl
theorem rts : Statement (.rts) := decode_of 0x24C0#16 rfl rfl rfl
theorem dbtW (counter : Operand) (target : Operand) : Statement (.dbtW counter target) := decode_of 0x2540#16 rfl rfl rfl
theorem dbfW (counter : Operand) (target : Operand) : Statement (.dbfW counter target) := decode_of 0x2541#16 rfl rfl rfl
theorem dbhiW (counter : Operand) (target : Operand) : Statement (.dbhiW counter target) := decode_of 0x2542#16 rfl rfl rfl
theorem dblsW (counter : Operand) (target : Operand) : Statement (.dblsW counter target) := decode_of 0x2543#16 rfl rfl rfl
theorem dbccW (counter : Operand) (target : Operand) : Statement (.dbccW counter target) := decode_of 0x2544#16 rfl rfl rfl
theorem dbcsW (counter : Operand) (target : Operand) : Statement (.dbcsW counter target) := decode_of 0x2545#16 rfl rfl rfl
theorem dbneW (counter : Operand) (target : Operand) : Statement (.dbneW counter target) := decode_of 0x2546#16 rfl rfl rfl
theorem dbeqW (counter : Operand) (target : Operand) : Statement (.dbeqW counter target) := decode_of 0x2547#16 rfl rfl rfl
theorem dbvcW (counter : Operand) (target : Operand) : Statement (.dbvcW counter target) := decode_of 0x2548#16 rfl rfl rfl
theorem dbvsW (counter : Operand) (target : Operand) : Statement (.dbvsW counter target) := decode_of 0x2549#16 rfl rfl rfl
theorem dbplW (counter : Operand) (target : Operand) : Statement (.dbplW counter target) := decode_of 0x254A#16 rfl rfl rfl
theorem dbmiW (counter : Operand) (target : Operand) : Statement (.dbmiW counter target) := decode_of 0x254B#16 rfl rfl rfl
theorem dbgeW (counter : Operand) (target : Operand) : Statement (.dbgeW counter target) := decode_of 0x254C#16 rfl rfl rfl
theorem dbltW (counter : Operand) (target : Operand) : Statement (.dbltW counter target) := decode_of 0x254D#16 rfl rfl rfl
theorem dbgtW (counter : Operand) (target : Operand) : Statement (.dbgtW counter target) := decode_of 0x254E#16 rfl rfl rfl
theorem dbleW (counter : Operand) (target : Operand) : Statement (.dbleW counter target) := decode_of 0x254F#16 rfl rfl rfl
theorem stB (dst : Operand) : Statement (.stB dst) := decode_of 0x2600#16 rfl rfl rfl
theorem sfB (dst : Operand) : Statement (.sfB dst) := decode_of 0x2601#16 rfl rfl rfl
theorem shiB (dst : Operand) : Statement (.shiB dst) := decode_of 0x2602#16 rfl rfl rfl
theorem slsB (dst : Operand) : Statement (.slsB dst) := decode_of 0x2603#16 rfl rfl rfl
theorem sccB (dst : Operand) : Statement (.sccB dst) := decode_of 0x2604#16 rfl rfl rfl
theorem scsB (dst : Operand) : Statement (.scsB dst) := decode_of 0x2605#16 rfl rfl rfl
theorem sneB (dst : Operand) : Statement (.sneB dst) := decode_of 0x2606#16 rfl rfl rfl
theorem seqB (dst : Operand) : Statement (.seqB dst) := decode_of 0x2607#16 rfl rfl rfl
theorem svcB (dst : Operand) : Statement (.svcB dst) := decode_of 0x2608#16 rfl rfl rfl
theorem svsB (dst : Operand) : Statement (.svsB dst) := decode_of 0x2609#16 rfl rfl rfl
theorem splB (dst : Operand) : Statement (.splB dst) := decode_of 0x260A#16 rfl rfl rfl
theorem smiB (dst : Operand) : Statement (.smiB dst) := decode_of 0x260B#16 rfl rfl rfl
theorem sgeB (dst : Operand) : Statement (.sgeB dst) := decode_of 0x260C#16 rfl rfl rfl
theorem sltB (dst : Operand) : Statement (.sltB dst) := decode_of 0x260D#16 rfl rfl rfl
theorem sgtB (dst : Operand) : Statement (.sgtB dst) := decode_of 0x260E#16 rfl rfl rfl
theorem sleB (dst : Operand) : Statement (.sleB dst) := decode_of 0x260F#16 rfl rfl rfl
theorem leaL (src : Operand) (dst : Operand) : Statement (.leaL src dst) := decode_of 0x2780#16 rfl rfl rfl
theorem peaL (src : Operand) : Statement (.peaL src) := decode_of 0x2880#16 rfl rfl rfl
theorem link (reg : Operand) (disp : Operand) : Statement (.link reg disp) := decode_of 0x29C0#16 rfl rfl rfl
theorem unlk (reg : Operand) : Statement (.unlk reg) := decode_of 0x2AC0#16 rfl rfl rfl
theorem movemWStore (reglist : BitVec 16) (dst : Operand) : Statement (.movemWStore reglist dst) := decode_of 0x2B40#16 rfl rfl rfl
theorem movemLStore (reglist : BitVec 16) (dst : Operand) : Statement (.movemLStore reglist dst) := decode_of 0x2B80#16 rfl rfl rfl
theorem movemWLoad (src : Operand) (reglist : BitVec 16) : Statement (.movemWLoad src reglist) := decode_of 0x2C40#16 rfl rfl rfl
theorem movemLLoad (src : Operand) (reglist : BitVec 16) : Statement (.movemLLoad src reglist) := decode_of 0x2C80#16 rfl rfl rfl
theorem trap (vector : Operand) : Statement (.trap vector) := decode_of 0x2DC0#16 rfl rfl rfl

end Sys2Proof.Laws.RoundTrip
end

