-- ==== Sys2Proof/Laws/Run.lean ====
section
/-! SUPPORT. What the call of a run variant and its loops can do, said once. -/

namespace Sys2Proof.Machine

/-! ## The call -/

theorem callRun_undone {loop : State → Result} {s : State} (h : s.undone = true) :
    callRun loop s = .refused .stepAfterUndo := by
  simp [callRun, h]

theorem callRun_interrupt {loop : State → Result} {s : State} (hu : s.undone = false) (h : s.status = .interrupt) :
    callRun loop s = .next (takeFault .unansweredInterrupt s) := by
  simp [callRun, hu, h]

theorem callRun_loop {loop : State → Result} {s : State} (hu : s.undone = false) (h : s.status ≠ .interrupt) :
    callRun loop s = loop s := by
  simp [callRun, hu, h]

/-! ## The loops -/

theorem runLoop_ended {s : State} (h : s.status ≠ .running) (n : Nat) : runLoop n s = .next s := by
  cases n <;> simp [runLoop, h]

theorem breakLoop_halted {bps : List Word} {s : State} (h : s.status ≠ .running ∨ s.pc ∈ bps) (n : Nat) :
    breakLoop bps n s = .next s := by
  cases n with
  | zero => rfl
  | succ n => rcases h with h | h <;> simp [breakLoop, h]

/-- One turn of the loop. -/
theorem runLoop_step {s t : State} (hs : s.status = .running) (h : step s = .next t) (n : Nat) :
    runLoop (n + 1) s = runLoop n t := by
  simp [runLoop, hs, h]

/-- A loop that meets no breakpoint is the loop without them. -/
theorem breakLoop_eq_runLoop {bps : List Word} {n : Nat} {s : State}
    (h : ∀ j < n, ∀ u, runLoop j s = .next u → u.pc ∉ bps) : breakLoop bps n s = runLoop n s := by
  induction n generalizing s with
  | zero => rfl
  | succ n ih =>
    have h0 : s.pc ∉ bps := h 0 (by omega) s rfl
    by_cases hs : s.status = .running
    · cases hst : step s with
      | next t =>
        have := ih fun j hj u hu => h (j + 1) (by omega) u ((runLoop_step hs hst j).trans hu)
        simp [breakLoop, runLoop, hs, hst, h0, this]
      | fault f => simp [breakLoop, runLoop, hs, hst, h0]
      | refused r => simp [breakLoop, runLoop, hs, hst, h0]
    · simp [breakLoop, runLoop, hs]

end Sys2Proof.Machine
end

