-- ==== Sys2Proof/Tests/Slice0.lean ====
section
/-! SUPPORT. The model's own tests. Every expected value comes from the spec: the vectors and scenarios of
spec/95_test_vectors.md, the encoding tables of spec/30_encoding.md, the forms of R103. The last part shows, for every
obligation that has hypotheses, concrete values that meet them together. -/

open Sys2Proof Sys2Proof.Machine Sys2Proof.Laws

namespace Sys2Proof.Tests

/-! ## Helpers -/

/-- Flags in the order `X N Z V C` of the vectors. -/
def flagsOf (x n z v c : Nat) : Flags := { x := x = 1, n := n = 1, z := z = 1, v := v = 1, c := c = 1 }

/-- The start state of the vectors: `MEM_SIZE = 0x10000`, running, everything zero but the stack pointer. -/
def small : State :=
  { State.reset with
    a := (Vector.replicate 8 0).set 7 0x10000
    status := .running
    reachedBottom := false
    options := { memSize := 0x10000, misaligned := .allow, keepHistory := true, historySize := 4 } }

/-- The same with the policy `MISALIGNED = fault`. -/
def strict : State := { small with options := { small.options with misaligned := .fault } }

/-- Registers set. -/
def withRegs (s : State) (l : List (Reg × Word)) : State := l.foldl (fun s p => s.withReg p.1 p.2) s

/-- Bytes from an address on. -/
def withBytes (s : State) (a : Nat) (bs : List Byte) : State := { s with mem := s.mem.writeBytes a bs }

/-- Flags set. -/
def withFlags (s : State) (f : Flags) : State := { s with flags := f }

/-- A program loaded at address 0. -/
def withProgram (s : State) (is : List Instr) : State :=
  { s with program := { lines := is.map (fun i => { entry := encode i, parsedLine := { text := "", lineIndex := 0 } }), labels := [] } }

/-- An outcome is a next state that passes a check. -/
def ends (r : Result) (p : State → Bool) : Bool :=
  match r with
  | .next t => p t
  | .fault _ => false
  | .refused _ => false

/-- An instruction answers a next state that passes a check. -/
def gives (i : Instr) (s : State) (p : State → Bool) : Bool := ends (exec i s) p

/-- An instruction takes a fault, and all else is as before (R312). -/
def faults (f : Fault) (i : Instr) (s : State) : Bool := gives i s (fun t => t = takeFault f s)

/-- An instruction is refused by a name. -/
def refuses (r : Refusal) (i : Instr) (s : State) : Bool :=
  match exec i s with
  | .next _ => false
  | .fault _ => false
  | .refused q => q = r

/-- `Dn`, `An`, `#v`, `(An)`, `(An)+`, `-(An)` in short. -/
def dn (n : Fin 8) : Operand := .register (.data n)
def an (n : Fin 8) : Operand := .register (.addr n)
def imm (v : Word) : Operand := .immediate v
def at0 (n : Fin 8) : Operand := .indirect n 0 none .plain
def post (n : Fin 8) : Operand := .indirect n 0 none .post
def pre (n : Fin 8) : Operand := .indirect n 0 none .pre

/-! ## Decoding: one word of every row, written out from the fields of R92 to R95 -/

/-- Op tag 1 (R93), sizes (R94). -/
theorem test_decode_move (x y : Operand) :
    decode { descriptor := 0b0000000100000000#16, operands := [x, y], reglist := none }
      = .ok (.moveB x y) ∧
    decode { descriptor := 0b0000000101000000#16, operands := [x, y], reglist := none }
      = .ok (.moveW x y) ∧
    decode { descriptor := 0b0000000110000000#16, operands := [x, y], reglist := none }
      = .ok (.moveL x y) :=
  ⟨RoundTrip.moveB x y, RoundTrip.moveW x y, RoundTrip.moveL x y⟩

/-- Op tag 2 (R93), sizes (R94). -/
theorem test_decode_moveq (x y : Operand) :
    decode { descriptor := 0b0000001010000000#16, operands := [x, y], reglist := none }
      = .ok (.moveqL x y) :=
  RoundTrip.moveqL x y

/-- Op tag 3 (R93), sizes (R94). -/
theorem test_decode_add (x y : Operand) :
    decode { descriptor := 0b0000001100000000#16, operands := [x, y], reglist := none }
      = .ok (.addB x y) ∧
    decode { descriptor := 0b0000001101000000#16, operands := [x, y], reglist := none }
      = .ok (.addW x y) ∧
    decode { descriptor := 0b0000001110000000#16, operands := [x, y], reglist := none }
      = .ok (.addL x y) :=
  ⟨RoundTrip.addB x y, RoundTrip.addW x y, RoundTrip.addL x y⟩

/-- Op tag 4 (R93), sizes (R94). -/
theorem test_decode_addq (x y : Operand) :
    decode { descriptor := 0b0000010000000000#16, operands := [x, y], reglist := none }
      = .ok (.addqB x y) ∧
    decode { descriptor := 0b0000010001000000#16, operands := [x, y], reglist := none }
      = .ok (.addqW x y) ∧
    decode { descriptor := 0b0000010010000000#16, operands := [x, y], reglist := none }
      = .ok (.addqL x y) :=
  ⟨RoundTrip.addqB x y, RoundTrip.addqW x y, RoundTrip.addqL x y⟩

/-- Op tag 5 (R93), sizes (R94). -/
theorem test_decode_adda (x y : Operand) :
    decode { descriptor := 0b0000010101000000#16, operands := [x, y], reglist := none }
      = .ok (.addaW x y) ∧
    decode { descriptor := 0b0000010110000000#16, operands := [x, y], reglist := none }
      = .ok (.addaL x y) :=
  ⟨RoundTrip.addaW x y, RoundTrip.addaL x y⟩

/-- Op tag 6 (R93), sizes (R94). -/
theorem test_decode_sub (x y : Operand) :
    decode { descriptor := 0b0000011000000000#16, operands := [x, y], reglist := none }
      = .ok (.subB x y) ∧
    decode { descriptor := 0b0000011001000000#16, operands := [x, y], reglist := none }
      = .ok (.subW x y) ∧
    decode { descriptor := 0b0000011010000000#16, operands := [x, y], reglist := none }
      = .ok (.subL x y) :=
  ⟨RoundTrip.subB x y, RoundTrip.subW x y, RoundTrip.subL x y⟩

/-- Op tag 7 (R93), sizes (R94). -/
theorem test_decode_subq (x y : Operand) :
    decode { descriptor := 0b0000011100000000#16, operands := [x, y], reglist := none }
      = .ok (.subqB x y) ∧
    decode { descriptor := 0b0000011101000000#16, operands := [x, y], reglist := none }
      = .ok (.subqW x y) ∧
    decode { descriptor := 0b0000011110000000#16, operands := [x, y], reglist := none }
      = .ok (.subqL x y) :=
  ⟨RoundTrip.subqB x y, RoundTrip.subqW x y, RoundTrip.subqL x y⟩

/-- Op tag 8 (R93), sizes (R94). -/
theorem test_decode_suba (x y : Operand) :
    decode { descriptor := 0b0000100001000000#16, operands := [x, y], reglist := none }
      = .ok (.subaW x y) ∧
    decode { descriptor := 0b0000100010000000#16, operands := [x, y], reglist := none }
      = .ok (.subaL x y) :=
  ⟨RoundTrip.subaW x y, RoundTrip.subaL x y⟩

/-- Op tag 9 (R93), sizes (R94). -/
theorem test_decode_cmp (x y : Operand) :
    decode { descriptor := 0b0000100100000000#16, operands := [x, y], reglist := none }
      = .ok (.cmpB x y) ∧
    decode { descriptor := 0b0000100101000000#16, operands := [x, y], reglist := none }
      = .ok (.cmpW x y) ∧
    decode { descriptor := 0b0000100110000000#16, operands := [x, y], reglist := none }
      = .ok (.cmpL x y) :=
  ⟨RoundTrip.cmpB x y, RoundTrip.cmpW x y, RoundTrip.cmpL x y⟩

/-- Op tag 10 (R93), sizes (R94). -/
theorem test_decode_tst (x : Operand) :
    decode { descriptor := 0b0000101000000000#16, operands := [x], reglist := none }
      = .ok (.tstB x) ∧
    decode { descriptor := 0b0000101001000000#16, operands := [x], reglist := none }
      = .ok (.tstW x) ∧
    decode { descriptor := 0b0000101010000000#16, operands := [x], reglist := none }
      = .ok (.tstL x) :=
  ⟨RoundTrip.tstB x, RoundTrip.tstW x, RoundTrip.tstL x⟩

/-- Op tag 11 (R93), sizes (R94). -/
theorem test_decode_muls (x y : Operand) :
    decode { descriptor := 0b0000101101000000#16, operands := [x, y], reglist := none }
      = .ok (.mulsW x y) :=
  RoundTrip.mulsW x y

/-- Op tag 12 (R93), sizes (R94). -/
theorem test_decode_mulu (x y : Operand) :
    decode { descriptor := 0b0000110001000000#16, operands := [x, y], reglist := none }
      = .ok (.muluW x y) :=
  RoundTrip.muluW x y

/-- Op tag 13 (R93), sizes (R94). -/
theorem test_decode_divs (x y : Operand) :
    decode { descriptor := 0b0000110101000000#16, operands := [x, y], reglist := none }
      = .ok (.divsW x y) :=
  RoundTrip.divsW x y

/-- Op tag 14 (R93), sizes (R94). -/
theorem test_decode_divu (x y : Operand) :
    decode { descriptor := 0b0000111001000000#16, operands := [x, y], reglist := none }
      = .ok (.divuW x y) :=
  RoundTrip.divuW x y

/-- Op tag 15 (R93), sizes (R94). -/
theorem test_decode_and (x y : Operand) :
    decode { descriptor := 0b0000111100000000#16, operands := [x, y], reglist := none }
      = .ok (.andB x y) ∧
    decode { descriptor := 0b0000111101000000#16, operands := [x, y], reglist := none }
      = .ok (.andW x y) ∧
    decode { descriptor := 0b0000111110000000#16, operands := [x, y], reglist := none }
      = .ok (.andL x y) :=
  ⟨RoundTrip.andB x y, RoundTrip.andW x y, RoundTrip.andL x y⟩

/-- Op tag 16 (R93), sizes (R94). -/
theorem test_decode_or (x y : Operand) :
    decode { descriptor := 0b0001000000000000#16, operands := [x, y], reglist := none }
      = .ok (.orB x y) ∧
    decode { descriptor := 0b0001000001000000#16, operands := [x, y], reglist := none }
      = .ok (.orW x y) ∧
    decode { descriptor := 0b0001000010000000#16, operands := [x, y], reglist := none }
      = .ok (.orL x y) :=
  ⟨RoundTrip.orB x y, RoundTrip.orW x y, RoundTrip.orL x y⟩

/-- Op tag 17 (R93), sizes (R94). -/
theorem test_decode_eor (x y : Operand) :
    decode { descriptor := 0b0001000100000000#16, operands := [x, y], reglist := none }
      = .ok (.eorB x y) ∧
    decode { descriptor := 0b0001000101000000#16, operands := [x, y], reglist := none }
      = .ok (.eorW x y) ∧
    decode { descriptor := 0b0001000110000000#16, operands := [x, y], reglist := none }
      = .ok (.eorL x y) :=
  ⟨RoundTrip.eorB x y, RoundTrip.eorW x y, RoundTrip.eorL x y⟩

/-- Op tag 18 (R93), sizes (R94). -/
theorem test_decode_not (x : Operand) :
    decode { descriptor := 0b0001001000000000#16, operands := [x], reglist := none }
      = .ok (.notB x) ∧
    decode { descriptor := 0b0001001001000000#16, operands := [x], reglist := none }
      = .ok (.notW x) ∧
    decode { descriptor := 0b0001001010000000#16, operands := [x], reglist := none }
      = .ok (.notL x) :=
  ⟨RoundTrip.notB x, RoundTrip.notW x, RoundTrip.notL x⟩

/-- Op tag 19 (R93), sizes (R94). -/
theorem test_decode_asl (x y : Operand) :
    decode { descriptor := 0b0001001100000000#16, operands := [x, y], reglist := none }
      = .ok (.aslB (.counted x y)) ∧
    decode { descriptor := 0b0001001100000000#16, operands := [x], reglist := none }
      = .ok (.aslB (.memory x)) ∧
    decode { descriptor := 0b0001001101000000#16, operands := [x, y], reglist := none }
      = .ok (.aslW (.counted x y)) ∧
    decode { descriptor := 0b0001001101000000#16, operands := [x], reglist := none }
      = .ok (.aslW (.memory x)) ∧
    decode { descriptor := 0b0001001110000000#16, operands := [x, y], reglist := none }
      = .ok (.aslL (.counted x y)) ∧
    decode { descriptor := 0b0001001110000000#16, operands := [x], reglist := none }
      = .ok (.aslL (.memory x)) :=
  ⟨RoundTrip.aslB (.counted x y), RoundTrip.aslB (.memory x), RoundTrip.aslW (.counted x y),
    RoundTrip.aslW (.memory x), RoundTrip.aslL (.counted x y), RoundTrip.aslL (.memory x)⟩

/-- Op tag 20 (R93), sizes (R94). -/
theorem test_decode_asr (x y : Operand) :
    decode { descriptor := 0b0001010000000000#16, operands := [x, y], reglist := none }
      = .ok (.asrB (.counted x y)) ∧
    decode { descriptor := 0b0001010000000000#16, operands := [x], reglist := none }
      = .ok (.asrB (.memory x)) ∧
    decode { descriptor := 0b0001010001000000#16, operands := [x, y], reglist := none }
      = .ok (.asrW (.counted x y)) ∧
    decode { descriptor := 0b0001010001000000#16, operands := [x], reglist := none }
      = .ok (.asrW (.memory x)) ∧
    decode { descriptor := 0b0001010010000000#16, operands := [x, y], reglist := none }
      = .ok (.asrL (.counted x y)) ∧
    decode { descriptor := 0b0001010010000000#16, operands := [x], reglist := none }
      = .ok (.asrL (.memory x)) :=
  ⟨RoundTrip.asrB (.counted x y), RoundTrip.asrB (.memory x), RoundTrip.asrW (.counted x y),
    RoundTrip.asrW (.memory x), RoundTrip.asrL (.counted x y), RoundTrip.asrL (.memory x)⟩

/-- Op tag 21 (R93), sizes (R94). -/
theorem test_decode_lsl (x y : Operand) :
    decode { descriptor := 0b0001010100000000#16, operands := [x, y], reglist := none }
      = .ok (.lslB (.counted x y)) ∧
    decode { descriptor := 0b0001010100000000#16, operands := [x], reglist := none }
      = .ok (.lslB (.memory x)) ∧
    decode { descriptor := 0b0001010101000000#16, operands := [x, y], reglist := none }
      = .ok (.lslW (.counted x y)) ∧
    decode { descriptor := 0b0001010101000000#16, operands := [x], reglist := none }
      = .ok (.lslW (.memory x)) ∧
    decode { descriptor := 0b0001010110000000#16, operands := [x, y], reglist := none }
      = .ok (.lslL (.counted x y)) ∧
    decode { descriptor := 0b0001010110000000#16, operands := [x], reglist := none }
      = .ok (.lslL (.memory x)) :=
  ⟨RoundTrip.lslB (.counted x y), RoundTrip.lslB (.memory x), RoundTrip.lslW (.counted x y),
    RoundTrip.lslW (.memory x), RoundTrip.lslL (.counted x y), RoundTrip.lslL (.memory x)⟩

/-- Op tag 22 (R93), sizes (R94). -/
theorem test_decode_lsr (x y : Operand) :
    decode { descriptor := 0b0001011000000000#16, operands := [x, y], reglist := none }
      = .ok (.lsrB (.counted x y)) ∧
    decode { descriptor := 0b0001011000000000#16, operands := [x], reglist := none }
      = .ok (.lsrB (.memory x)) ∧
    decode { descriptor := 0b0001011001000000#16, operands := [x, y], reglist := none }
      = .ok (.lsrW (.counted x y)) ∧
    decode { descriptor := 0b0001011001000000#16, operands := [x], reglist := none }
      = .ok (.lsrW (.memory x)) ∧
    decode { descriptor := 0b0001011010000000#16, operands := [x, y], reglist := none }
      = .ok (.lsrL (.counted x y)) ∧
    decode { descriptor := 0b0001011010000000#16, operands := [x], reglist := none }
      = .ok (.lsrL (.memory x)) :=
  ⟨RoundTrip.lsrB (.counted x y), RoundTrip.lsrB (.memory x), RoundTrip.lsrW (.counted x y),
    RoundTrip.lsrW (.memory x), RoundTrip.lsrL (.counted x y), RoundTrip.lsrL (.memory x)⟩

/-- Op tag 23 (R93), sizes (R94). -/
theorem test_decode_rol (x y : Operand) :
    decode { descriptor := 0b0001011100000000#16, operands := [x, y], reglist := none }
      = .ok (.rolB (.counted x y)) ∧
    decode { descriptor := 0b0001011100000000#16, operands := [x], reglist := none }
      = .ok (.rolB (.memory x)) ∧
    decode { descriptor := 0b0001011101000000#16, operands := [x, y], reglist := none }
      = .ok (.rolW (.counted x y)) ∧
    decode { descriptor := 0b0001011101000000#16, operands := [x], reglist := none }
      = .ok (.rolW (.memory x)) ∧
    decode { descriptor := 0b0001011110000000#16, operands := [x, y], reglist := none }
      = .ok (.rolL (.counted x y)) ∧
    decode { descriptor := 0b0001011110000000#16, operands := [x], reglist := none }
      = .ok (.rolL (.memory x)) :=
  ⟨RoundTrip.rolB (.counted x y), RoundTrip.rolB (.memory x), RoundTrip.rolW (.counted x y),
    RoundTrip.rolW (.memory x), RoundTrip.rolL (.counted x y), RoundTrip.rolL (.memory x)⟩

/-- Op tag 24 (R93), sizes (R94). -/
theorem test_decode_ror (x y : Operand) :
    decode { descriptor := 0b0001100000000000#16, operands := [x, y], reglist := none }
      = .ok (.rorB (.counted x y)) ∧
    decode { descriptor := 0b0001100000000000#16, operands := [x], reglist := none }
      = .ok (.rorB (.memory x)) ∧
    decode { descriptor := 0b0001100001000000#16, operands := [x, y], reglist := none }
      = .ok (.rorW (.counted x y)) ∧
    decode { descriptor := 0b0001100001000000#16, operands := [x], reglist := none }
      = .ok (.rorW (.memory x)) ∧
    decode { descriptor := 0b0001100010000000#16, operands := [x, y], reglist := none }
      = .ok (.rorL (.counted x y)) ∧
    decode { descriptor := 0b0001100010000000#16, operands := [x], reglist := none }
      = .ok (.rorL (.memory x)) :=
  ⟨RoundTrip.rorB (.counted x y), RoundTrip.rorB (.memory x), RoundTrip.rorW (.counted x y),
    RoundTrip.rorW (.memory x), RoundTrip.rorL (.counted x y), RoundTrip.rorL (.memory x)⟩

/-- Op tag 25 (R93), sizes (R94). -/
theorem test_decode_neg (x : Operand) :
    decode { descriptor := 0b0001100100000000#16, operands := [x], reglist := none }
      = .ok (.negB x) ∧
    decode { descriptor := 0b0001100101000000#16, operands := [x], reglist := none }
      = .ok (.negW x) ∧
    decode { descriptor := 0b0001100110000000#16, operands := [x], reglist := none }
      = .ok (.negL x) :=
  ⟨RoundTrip.negB x, RoundTrip.negW x, RoundTrip.negL x⟩

/-- Op tag 26 (R93), sizes (R94). -/
theorem test_decode_ext (x : Operand) :
    decode { descriptor := 0b0001101001000000#16, operands := [x], reglist := none }
      = .ok (.extW x) ∧
    decode { descriptor := 0b0001101010000000#16, operands := [x], reglist := none }
      = .ok (.extL x) :=
  ⟨RoundTrip.extW x, RoundTrip.extL x⟩

/-- Op tag 27 (R93), sizes (R94). -/
theorem test_decode_swap (x : Operand) :
    decode { descriptor := 0b0001101101000000#16, operands := [x], reglist := none }
      = .ok (.swapW x) :=
  RoundTrip.swapW x

/-- Op tag 28 (R93), sizes (R94). -/
theorem test_decode_btst (x y : Operand) :
    decode { descriptor := 0b0001110010000000#16, operands := [x, y], reglist := none }
      = .ok (.btstL x y) ∧
    decode { descriptor := 0b0001110000000000#16, operands := [x, y], reglist := none }
      = .ok (.btstB x y) :=
  ⟨RoundTrip.btstL x y, RoundTrip.btstB x y⟩

/-- Op tag 29 (R93), sizes (R94). -/
theorem test_decode_bclr (x y : Operand) :
    decode { descriptor := 0b0001110110000000#16, operands := [x, y], reglist := none }
      = .ok (.bclrL x y) ∧
    decode { descriptor := 0b0001110100000000#16, operands := [x, y], reglist := none }
      = .ok (.bclrB x y) :=
  ⟨RoundTrip.bclrL x y, RoundTrip.bclrB x y⟩

/-- Op tag 30 (R93), sizes (R94). -/
theorem test_decode_bset (x y : Operand) :
    decode { descriptor := 0b0001111010000000#16, operands := [x, y], reglist := none }
      = .ok (.bsetL x y) ∧
    decode { descriptor := 0b0001111000000000#16, operands := [x, y], reglist := none }
      = .ok (.bsetB x y) :=
  ⟨RoundTrip.bsetL x y, RoundTrip.bsetB x y⟩

/-- Op tag 31 (R93), sizes (R94). -/
theorem test_decode_bchg (x y : Operand) :
    decode { descriptor := 0b0001111110000000#16, operands := [x, y], reglist := none }
      = .ok (.bchgL x y) ∧
    decode { descriptor := 0b0001111100000000#16, operands := [x, y], reglist := none }
      = .ok (.bchgB x y) :=
  ⟨RoundTrip.bchgL x y, RoundTrip.bchgB x y⟩

/-- Op tag 32 (R93), conditions 0 to 15 (R95). -/
theorem test_decode_bcc (x : Operand) :
    decode { descriptor := 0b0010000011000000#16, operands := [x], reglist := none }
      = .ok (.bt x) ∧
    decode { descriptor := 0b0010000011000001#16, operands := [x], reglist := none }
      = .ok (.bf x) ∧
    decode { descriptor := 0b0010000011000010#16, operands := [x], reglist := none }
      = .ok (.bhi x) ∧
    decode { descriptor := 0b0010000011000011#16, operands := [x], reglist := none }
      = .ok (.bls x) ∧
    decode { descriptor := 0b0010000011000100#16, operands := [x], reglist := none }
      = .ok (.bcc x) ∧
    decode { descriptor := 0b0010000011000101#16, operands := [x], reglist := none }
      = .ok (.bcs x) ∧
    decode { descriptor := 0b0010000011000110#16, operands := [x], reglist := none }
      = .ok (.bne x) ∧
    decode { descriptor := 0b0010000011000111#16, operands := [x], reglist := none }
      = .ok (.beq x) ∧
    decode { descriptor := 0b0010000011001000#16, operands := [x], reglist := none }
      = .ok (.bvc x) ∧
    decode { descriptor := 0b0010000011001001#16, operands := [x], reglist := none }
      = .ok (.bvs x) ∧
    decode { descriptor := 0b0010000011001010#16, operands := [x], reglist := none }
      = .ok (.bpl x) ∧
    decode { descriptor := 0b0010000011001011#16, operands := [x], reglist := none }
      = .ok (.bmi x) ∧
    decode { descriptor := 0b0010000011001100#16, operands := [x], reglist := none }
      = .ok (.bge x) ∧
    decode { descriptor := 0b0010000011001101#16, operands := [x], reglist := none }
      = .ok (.blt x) ∧
    decode { descriptor := 0b0010000011001110#16, operands := [x], reglist := none }
      = .ok (.bgt x) ∧
    decode { descriptor := 0b0010000011001111#16, operands := [x], reglist := none }
      = .ok (.ble x) :=
  ⟨RoundTrip.bt x, RoundTrip.bf x, RoundTrip.bhi x, RoundTrip.bls x, RoundTrip.bcc x, RoundTrip.bcs x,
    RoundTrip.bne x, RoundTrip.beq x, RoundTrip.bvc x, RoundTrip.bvs x, RoundTrip.bpl x, RoundTrip.bmi x,
    RoundTrip.bge x, RoundTrip.blt x, RoundTrip.bgt x, RoundTrip.ble x⟩

/-- Op tag 33 (R93), sizes (R94). -/
theorem test_decode_bra (x : Operand) :
    decode { descriptor := 0b0010000111000000#16, operands := [x], reglist := none }
      = .ok (.bra x) :=
  RoundTrip.bra x

/-- Op tag 34 (R93), sizes (R94). -/
theorem test_decode_bsr (x : Operand) :
    decode { descriptor := 0b0010001011000000#16, operands := [x], reglist := none }
      = .ok (.bsr x) :=
  RoundTrip.bsr x

/-- Op tag 35 (R93), sizes (R94). -/
theorem test_decode_jsr (x : Operand) :
    decode { descriptor := 0b0010001111000000#16, operands := [x], reglist := none }
      = .ok (.jsr x) :=
  RoundTrip.jsr x

/-- Op tag 36 (R93), sizes (R94). -/
theorem test_decode_rts :
    decode { descriptor := 0b0010010011000000#16, operands := [], reglist := none }
      = .ok .rts :=
  RoundTrip.rts

/-- Op tag 37 (R93), conditions 0 to 15 (R95). -/
theorem test_decode_dbcc (x y : Operand) :
    decode { descriptor := 0b0010010101000000#16, operands := [x, y], reglist := none }
      = .ok (.dbtW x y) ∧
    decode { descriptor := 0b0010010101000001#16, operands := [x, y], reglist := none }
      = .ok (.dbfW x y) ∧
    decode { descriptor := 0b0010010101000010#16, operands := [x, y], reglist := none }
      = .ok (.dbhiW x y) ∧
    decode { descriptor := 0b0010010101000011#16, operands := [x, y], reglist := none }
      = .ok (.dblsW x y) ∧
    decode { descriptor := 0b0010010101000100#16, operands := [x, y], reglist := none }
      = .ok (.dbccW x y) ∧
    decode { descriptor := 0b0010010101000101#16, operands := [x, y], reglist := none }
      = .ok (.dbcsW x y) ∧
    decode { descriptor := 0b0010010101000110#16, operands := [x, y], reglist := none }
      = .ok (.dbneW x y) ∧
    decode { descriptor := 0b0010010101000111#16, operands := [x, y], reglist := none }
      = .ok (.dbeqW x y) ∧
    decode { descriptor := 0b0010010101001000#16, operands := [x, y], reglist := none }
      = .ok (.dbvcW x y) ∧
    decode { descriptor := 0b0010010101001001#16, operands := [x, y], reglist := none }
      = .ok (.dbvsW x y) ∧
    decode { descriptor := 0b0010010101001010#16, operands := [x, y], reglist := none }
      = .ok (.dbplW x y) ∧
    decode { descriptor := 0b0010010101001011#16, operands := [x, y], reglist := none }
      = .ok (.dbmiW x y) ∧
    decode { descriptor := 0b0010010101001100#16, operands := [x, y], reglist := none }
      = .ok (.dbgeW x y) ∧
    decode { descriptor := 0b0010010101001101#16, operands := [x, y], reglist := none }
      = .ok (.dbltW x y) ∧
    decode { descriptor := 0b0010010101001110#16, operands := [x, y], reglist := none }
      = .ok (.dbgtW x y) ∧
    decode { descriptor := 0b0010010101001111#16, operands := [x, y], reglist := none }
      = .ok (.dbleW x y) :=
  ⟨RoundTrip.dbtW x y, RoundTrip.dbfW x y, RoundTrip.dbhiW x y, RoundTrip.dblsW x y, RoundTrip.dbccW x y,
    RoundTrip.dbcsW x y, RoundTrip.dbneW x y, RoundTrip.dbeqW x y, RoundTrip.dbvcW x y, RoundTrip.dbvsW x y,
    RoundTrip.dbplW x y, RoundTrip.dbmiW x y, RoundTrip.dbgeW x y, RoundTrip.dbltW x y, RoundTrip.dbgtW x y,
    RoundTrip.dbleW x y⟩

/-- Op tag 38 (R93), conditions 0 to 15 (R95). -/
theorem test_decode_scc (x : Operand) :
    decode { descriptor := 0b0010011000000000#16, operands := [x], reglist := none }
      = .ok (.stB x) ∧
    decode { descriptor := 0b0010011000000001#16, operands := [x], reglist := none }
      = .ok (.sfB x) ∧
    decode { descriptor := 0b0010011000000010#16, operands := [x], reglist := none }
      = .ok (.shiB x) ∧
    decode { descriptor := 0b0010011000000011#16, operands := [x], reglist := none }
      = .ok (.slsB x) ∧
    decode { descriptor := 0b0010011000000100#16, operands := [x], reglist := none }
      = .ok (.sccB x) ∧
    decode { descriptor := 0b0010011000000101#16, operands := [x], reglist := none }
      = .ok (.scsB x) ∧
    decode { descriptor := 0b0010011000000110#16, operands := [x], reglist := none }
      = .ok (.sneB x) ∧
    decode { descriptor := 0b0010011000000111#16, operands := [x], reglist := none }
      = .ok (.seqB x) ∧
    decode { descriptor := 0b0010011000001000#16, operands := [x], reglist := none }
      = .ok (.svcB x) ∧
    decode { descriptor := 0b0010011000001001#16, operands := [x], reglist := none }
      = .ok (.svsB x) ∧
    decode { descriptor := 0b0010011000001010#16, operands := [x], reglist := none }
      = .ok (.splB x) ∧
    decode { descriptor := 0b0010011000001011#16, operands := [x], reglist := none }
      = .ok (.smiB x) ∧
    decode { descriptor := 0b0010011000001100#16, operands := [x], reglist := none }
      = .ok (.sgeB x) ∧
    decode { descriptor := 0b0010011000001101#16, operands := [x], reglist := none }
      = .ok (.sltB x) ∧
    decode { descriptor := 0b0010011000001110#16, operands := [x], reglist := none }
      = .ok (.sgtB x) ∧
    decode { descriptor := 0b0010011000001111#16, operands := [x], reglist := none }
      = .ok (.sleB x) :=
  ⟨RoundTrip.stB x, RoundTrip.sfB x, RoundTrip.shiB x, RoundTrip.slsB x, RoundTrip.sccB x, RoundTrip.scsB x,
    RoundTrip.sneB x, RoundTrip.seqB x, RoundTrip.svcB x, RoundTrip.svsB x, RoundTrip.splB x, RoundTrip.smiB x,
    RoundTrip.sgeB x, RoundTrip.sltB x, RoundTrip.sgtB x, RoundTrip.sleB x⟩

/-- Op tag 39 (R93), sizes (R94). -/
theorem test_decode_lea (x y : Operand) :
    decode { descriptor := 0b0010011110000000#16, operands := [x, y], reglist := none }
      = .ok (.leaL x y) :=
  RoundTrip.leaL x y

/-- Op tag 40 (R93), sizes (R94). -/
theorem test_decode_pea (x : Operand) :
    decode { descriptor := 0b0010100010000000#16, operands := [x], reglist := none }
      = .ok (.peaL x) :=
  RoundTrip.peaL x

/-- Op tag 41 (R93), sizes (R94). -/
theorem test_decode_link (x y : Operand) :
    decode { descriptor := 0b0010100111000000#16, operands := [x, y], reglist := none }
      = .ok (.link x y) :=
  RoundTrip.link x y

/-- Op tag 42 (R93), sizes (R94). -/
theorem test_decode_unlk (x : Operand) :
    decode { descriptor := 0b0010101011000000#16, operands := [x], reglist := none }
      = .ok (.unlk x) :=
  RoundTrip.unlk x

/-- Op tag 43 (R93), sizes (R94). -/
theorem test_decode_movem_store (x : Operand) (l : BitVec 16) :
    decode { descriptor := 0b0010101101000000#16, operands := [x], reglist := some l }
      = .ok (.movemWStore l x) ∧
    decode { descriptor := 0b0010101110000000#16, operands := [x], reglist := some l }
      = .ok (.movemLStore l x) :=
  ⟨RoundTrip.movemWStore l x, RoundTrip.movemLStore l x⟩

/-- Op tag 44 (R93), sizes (R94). -/
theorem test_decode_movem_load (x : Operand) (l : BitVec 16) :
    decode { descriptor := 0b0010110001000000#16, operands := [x], reglist := some l }
      = .ok (.movemWLoad x l) ∧
    decode { descriptor := 0b0010110010000000#16, operands := [x], reglist := some l }
      = .ok (.movemLLoad x l) :=
  ⟨RoundTrip.movemWLoad x l, RoundTrip.movemLLoad x l⟩

/-- Op tag 45 (R93), sizes (R94). -/
theorem test_decode_trap (x : Operand) :
    decode { descriptor := 0b0010110111000000#16, operands := [x], reglist := none }
      = .ok (.trap x) :=
  RoundTrip.trap x

/-- Words that denote no instruction (R92, R104 (b)): bits 5:4 not zero, a size the family lacks, a condition on an
unconditional tag, op tags 0 and 0x2E. -/
theorem test_decode_rejects :
    decode { descriptor := 0b0000000101010000#16, operands := [], reglist := none } = .error .noInstruction ∧
    decode { descriptor := 0b0000000111000000#16, operands := [], reglist := none } = .error .noInstruction ∧
    decode { descriptor := 0b0010010001000000#16, operands := [], reglist := none } = .error .noInstruction ∧
    decode { descriptor := 0b0000000101000001#16, operands := [], reglist := none } = .error .noInstruction ∧
    decode { descriptor := 0b0000000001000000#16, operands := [], reglist := none } = .error .noInstruction ∧
    decode { descriptor := 0b0010111011000000#16, operands := [], reglist := none } = .error .noInstruction := by
  decide

/-- Entries that carry another number of operands, a register list too many, or none for MOVEM (R104 (c)). -/
theorem test_decode_shape :
    decode { descriptor := 0x0100#16, operands := [dn 0], reglist := none } = .error .operandShape ∧
    decode { descriptor := 0x24C0#16, operands := [dn 0], reglist := none } = .error .operandShape ∧
    decode { descriptor := 0x0100#16, operands := [dn 0, dn 1], reglist := some 1 } = .error .operandShape ∧
    decode { descriptor := 0x2B40#16, operands := [at0 0], reglist := none } = .error .operandShape := by decide

/-! ## The check on forms (R103): an admitted term and an ill-formed one for each check -/

theorem test_wf_move : (Instr.moveB (imm 1) (pre 0)).wellFormed = true ∧ (Instr.moveB (an 0) (dn 0)).wellFormed = false ∧
    (Instr.moveL (dn 0) (an 0)).wellFormed = false ∧ (Instr.moveL (dn 0) (imm 0)).wellFormed = false := by decide

theorem test_wf_moveq : (Instr.moveqL (imm (-128)) (dn 0)).wellFormed = true ∧
    (Instr.moveqL (imm 128) (dn 0)).wellFormed = false ∧ (Instr.moveqL (imm 0) (an 0)).wellFormed = false := by decide

theorem test_wf_addSub : (Instr.addW (an 0) (dn 0)).wellFormed = true ∧
    (Instr.addB (an 0) (dn 0)).wellFormed = false ∧ (Instr.subW (imm 1) (at0 0)).wellFormed = false := by decide

theorem test_wf_quick : (Instr.addqB (imm 8) (at0 0)).wellFormed = true ∧ (Instr.addqB (imm 0) (dn 0)).wellFormed = false ∧
    (Instr.subqL (imm 9) (dn 0)).wellFormed = false ∧ (Instr.subqL (imm 1) (an 0)).wellFormed = false := by decide

theorem test_wf_toAddr : (Instr.addaW (an 1) (an 0)).wellFormed = true ∧
    (Instr.subaL (dn 0) (dn 1)).wellFormed = false := by decide

theorem test_wf_compare : (Instr.cmpB (at0 0) (dn 0)).wellFormed = true ∧
    (Instr.cmpB (an 0) (dn 0)).wellFormed = false ∧ (Instr.cmpL (dn 0) (at0 0)).wellFormed = false := by decide

theorem test_wf_unary : (Instr.tstB (post 0)).wellFormed = true ∧ (Instr.negW (an 0)).wellFormed = false ∧
    (Instr.notL (imm 1)).wellFormed = false := by decide

theorem test_wf_logic : (Instr.andW (imm 1) (dn 0)).wellFormed = true ∧ (Instr.orW (an 0) (dn 0)).wellFormed = false ∧
    (Instr.andW (imm 1) (at0 0)).wellFormed = false ∧ (Instr.eorW (dn 0) (at0 0)).wellFormed = true ∧
    (Instr.eorW (imm 1) (dn 0)).wellFormed = false := by decide

theorem test_wf_mulDiv : (Instr.divsW (imm 0) (dn 0)).wellFormed = true ∧
    (Instr.mulsW (an 0) (dn 0)).wellFormed = false ∧ (Instr.muluW (dn 0) (at0 0)).wellFormed = false := by decide

theorem test_wf_dataReg : (Instr.extW (dn 0)).wellFormed = true ∧ (Instr.swapW (an 0)).wellFormed = false ∧
    (Instr.extL (at0 0)).wellFormed = false := by decide

theorem test_wf_shift : (Instr.aslB (.counted (imm 8) (dn 0))).wellFormed = true ∧
    (Instr.aslB (.counted (imm 0) (dn 0))).wellFormed = false ∧
    (Instr.rorL (.counted (imm 9) (dn 0))).wellFormed = false ∧
    (Instr.lsrW (.memory (at0 0))).wellFormed = true ∧ (Instr.lsrB (.memory (at0 0))).wellFormed = false ∧
    (Instr.lsrW (.counted (dn 0) (at0 0))).wellFormed = false := by decide

theorem test_wf_bit : (Instr.btstL (imm 99) (dn 0)).wellFormed = true ∧ (Instr.btstL (imm 0) (at0 0)).wellFormed = false ∧
    (Instr.bsetB (dn 1) (at0 0)).wellFormed = true ∧ (Instr.bsetB (dn 1) (dn 0)).wellFormed = false ∧
    (Instr.bclrL (an 0) (dn 0)).wellFormed = false := by decide

theorem test_wf_branch : (Instr.beq (.address 6)).wellFormed = true ∧ (Instr.beq (at0 0)).wellFormed = false ∧
    (Instr.jsr (at0 0)).wellFormed = true ∧ (Instr.jsr (post 0)).wellFormed = false ∧
    (Instr.bsr (at0 0)).wellFormed = false := by decide

theorem test_wf_decBranch : (Instr.dbfW (dn 0) (.address 0)).wellFormed = true ∧
    (Instr.dbfW (an 0) (.address 0)).wellFormed = false ∧ (Instr.dbfW (dn 0) (.absolute 0)).wellFormed = false := by decide

theorem test_wf_setByte : (Instr.stB (pre 7)).wellFormed = true ∧ (Instr.stB (an 0)).wellFormed = false := by decide

theorem test_wf_address : (Instr.leaL (at0 0) (an 0)).wellFormed = true ∧ (Instr.leaL (post 0) (an 0)).wellFormed = false ∧
    (Instr.leaL (at0 0) (dn 0)).wellFormed = false ∧ (Instr.peaL (imm 0)).wellFormed = false := by decide

theorem test_wf_frame : (Instr.link (an 6) (imm (-8))).wellFormed = true ∧
    (Instr.link (an 7) (imm 0)).wellFormed = false ∧ (Instr.unlk (an 7)).wellFormed = false ∧
    (Instr.link (an 6) (dn 0)).wellFormed = false := by decide

theorem test_wf_movem : (Instr.movemLStore 0x0001 (pre 0)).wellFormed = true ∧
    (Instr.movemLStore 0x0100 (pre 0)).wellFormed = false ∧ (Instr.movemLStore 0 (post 0)).wellFormed = false ∧
    (Instr.movemWLoad (post 0) 0x0200).wellFormed = true ∧ (Instr.movemWLoad (post 0) 0x0100).wellFormed = false ∧
    (Instr.movemWLoad (pre 0) 0).wellFormed = false := by decide

theorem test_wf_trap : (Instr.trap (imm 15)).wellFormed = true ∧ (Instr.trap (imm 14)).wellFormed = false ∧
    (Instr.trap (dn 0)).wellFormed = false := by decide

/-- A predecrement with a displacement is no form of R99. -/
theorem test_wf_malformed : (Instr.tstB (.indirect 0 4 none .pre)).wellFormed = false := by decide

/-- A form outside R103 with no fault of its own is refused (R104 (c)). -/
theorem test_refused : refuses .formNotAdmitted (.leaL (post 0) (an 0)) small = true := by decide

/-! ## Meanings: the vectors of spec/95 part 2 -/

/-- spec/95: `MOVE.B D0,-(A7)`. -/
theorem test_moveB_a :
    gives (.moveB (dn 0) (pre 7)) (withRegs small [(.data 0, 0xAB)]) (fun t =>
      t.x (.addr 7) = 0xFFFE ∧ t.mem.readBytes 0xFFFE 2 = [0xAB, 0] ∧ t.flags = flagsOf 0 1 0 0 0) = true := by decide

/-- spec/95: `MOVE.B A0,D0`. -/
theorem test_moveB_b :
    faults .illegalAddressingMode (.moveB (an 0) (dn 0)) small = true := by decide

/-- spec/95: `MOVE.W (A0),D1`. -/
theorem test_moveW_a :
    faults .addressOutOfBounds (.moveW (at0 0) (dn 1)) (withRegs small [(.addr 0, 0xFFFF)]) = true := by decide

/-- spec/95: `MOVE.W (A0)+,(A1)`. -/
theorem test_moveW_b :
    faults .addressOutOfBounds (.moveW (post 0) (at0 1))
      (withRegs small [(.addr 0, 0x1000), (.addr 1, 0xFFFF)]) = true := by decide

/-- spec/95: `MOVE.L #0,D3`. -/
theorem test_moveL_a :
    gives (.moveL (imm 0) (dn 3)) (withFlags (withRegs small [(.data 3, 5)]) (flagsOf 0 1 0 0 0)) (fun t =>
      t.x (.data 3) = 0 ∧ t.flags = flagsOf 0 0 1 0 0) = true := by decide

/-- spec/95: `MOVE.L (A0)+,(A0)+`. -/
theorem test_moveL_b :
    gives (.moveL (post 0) (post 0)) (withBytes (withRegs small [(.addr 0, 0x1000)]) 0x1000 [1, 2, 3, 4]) (fun t =>
      t.x (.addr 0) = 0x1008 ∧ t.mem.readBytes 0x1000 8 = [1, 2, 3, 4, 1, 2, 3, 4] ∧ t.flags = flagsOf 0 0 0 0 0) = true := by decide

/-- spec/95: `MOVEQ #-128,D0`. -/
theorem test_moveqL_a :
    gives (.moveqL (imm 0xFFFFFF80) (dn 0)) (withRegs small [(.data 0, 0x12345678)]) (fun t =>
      t.x (.data 0) = 0xFFFFFF80 ∧ t.flags = flagsOf 0 1 0 0 0) = true := by decide

/-- spec/95: `MOVEQ #0,D0`. -/
theorem test_moveqL_b :
    gives (.moveqL (imm 0) (dn 0)) (withFlags (withRegs small [(.data 0, 0x12345678)]) (flagsOf 1 1 0 1 1)) (fun t =>
      t.x (.data 0) = 0 ∧ t.flags = flagsOf 1 0 1 0 0) = true := by decide

/-- spec/95: `ADD.B #1,D0`. -/
theorem test_addB_a :
    gives (.addB (imm 1) (dn 0)) (withRegs small [(.data 0, 0xFF)]) (fun t =>
      t.x (.data 0) = 0 ∧ t.flags = flagsOf 1 0 1 0 1) = true := by decide

/-- spec/95: `ADD.B #1,D0`. -/
theorem test_addB_b :
    gives (.addB (imm 1) (dn 0)) (withRegs small [(.data 0, 0x7F)]) (fun t =>
      t.x (.data 0) = 0x80 ∧ t.flags = flagsOf 0 1 0 1 0) = true := by decide

/-- spec/95: `ADD.W D1,D0`. -/
theorem test_addW_a :
    gives (.addW (dn 1) (dn 0)) (withRegs small [(.data 0, 0x1234FFFF), (.data 1, 1)]) (fun t =>
      t.x (.data 0) = 0x12340000 ∧ t.flags = flagsOf 1 0 1 0 1) = true := by decide

/-- spec/95: `ADD.W D0,(A0)+`. -/
theorem test_addW_b :
    gives (.addW (dn 0) (post 0))
      (withBytes (withRegs small [(.data 0, 1), (.addr 0, 0x2000)]) 0x2000 [0x7F, 0xFF]) (fun t =>
      t.x (.addr 0) = 0x2002 ∧ t.mem.readBytes 0x2000 2 = [0x80, 0] ∧ t.flags = flagsOf 0 1 0 1 0) = true := by decide

/-- spec/95: `ADD.L D0,D0`. -/
theorem test_addL :
    gives (.addL (dn 0) (dn 0)) (withRegs small [(.data 0, 0x80000000)]) (fun t =>
      t.x (.data 0) = 0 ∧ t.flags = flagsOf 1 0 1 1 1) = true := by decide

/-- spec/95: `ADDQ.L #8,D0`. -/
theorem test_addqL :
    gives (.addqL (imm 8) (dn 0)) (withRegs small [(.data 0, 0xFFFFFFF8)]) (fun t =>
      t.x (.data 0) = 0 ∧ t.flags = flagsOf 1 0 1 0 1) = true := by decide

/-- spec/95: `ADDA.W #$8000,A0`. -/
theorem test_addaW :
    gives (.addaW (imm 0x8000) (an 0)) (withFlags (withRegs small [(.addr 0, 0x10000)]) (flagsOf 0 0 1 0 0)) (fun t =>
      t.x (.addr 0) = 0x8000 ∧ t.flags = flagsOf 0 0 1 0 0) = true := by decide

/-- spec/95: `ADDA.L #4,A7`. -/
theorem test_addaL :
    gives (.addaL (imm 4) (an 7)) (withRegs small [(.addr 7, 0xFFFC)]) (fun t =>
      t.x (.addr 7) = 0x10000 ∧ t.flags = flagsOf 0 0 0 0 0) = true := by decide

/-- spec/95: `SUB.B #1,D0`. -/
theorem test_subB_a :
    gives (.subB (imm 1) (dn 0)) (withRegs small [(.data 0, 0)]) (fun t =>
      t.x (.data 0) = 0xFF ∧ t.flags = flagsOf 1 1 0 0 1) = true := by decide

/-- spec/95: `SUB.B #1,D0`. -/
theorem test_subB_b :
    gives (.subB (imm 1) (dn 0)) (withRegs small [(.data 0, 0x80)]) (fun t =>
      t.x (.data 0) = 0x7F ∧ t.flags = flagsOf 0 0 0 1 0) = true := by decide

/-- spec/95: `SUB.W #$8000,D0`. -/
theorem test_subW :
    gives (.subW (imm 0x8000) (dn 0)) (withRegs small [(.data 0, 0x7FFF)]) (fun t =>
      t.x (.data 0) = 0xFFFF ∧ t.flags = flagsOf 1 1 0 1 1) = true := by decide

/-- spec/95: `SUBQ.B #8,D0`. -/
theorem test_subqB :
    gives (.subqB (imm 8) (dn 0)) (withRegs small [(.data 0, 5)]) (fun t =>
      t.x (.data 0) = 0xFD ∧ t.flags = flagsOf 1 1 0 0 1) = true := by decide

/-- spec/95: `SUBA.W #1,A0`. -/
theorem test_subaW :
    gives (.subaW (imm 1) (an 0)) (withFlags (withRegs small [(.addr 0, 0)]) (flagsOf 0 1 0 0 0)) (fun t =>
      t.x (.addr 0) = 0xFFFFFFFF ∧ t.flags = flagsOf 0 1 0 0 0) = true := by decide

/-- spec/95: `CMP.B #$7F,D0`. -/
theorem test_cmpB :
    gives (.cmpB (imm 0x7F) (dn 0)) (withRegs small [(.data 0, 0x80)]) (fun t =>
      t.flags = flagsOf 0 0 0 1 0) = true := by decide

/-- spec/95: `CMP.W #$FFFF,D0`. -/
theorem test_cmpW :
    gives (.cmpW (imm 0xFFFF) (dn 0)) (withFlags (withRegs small [(.data 0, 1)]) (flagsOf 1 0 0 0 0)) (fun t =>
      t.x (.data 0) = 1 ∧ t.flags = flagsOf 1 0 0 0 1) = true := by decide

/-- spec/95: `CMP.L D0,D0`. -/
theorem test_cmpL :
    gives (.cmpL (dn 0) (dn 0)) (withRegs small [(.data 0, 0xDEADBEEF)]) (fun t =>
      t.flags = flagsOf 0 0 1 0 0) = true := by decide

/-- spec/95: `TST.B D0`. -/
theorem test_tstB :
    gives (.tstB (dn 0)) (withFlags (withRegs small [(.data 0, 0xFFFFFF00)]) (flagsOf 1 0 0 1 1)) (fun t =>
      t.flags = flagsOf 1 0 1 0 0) = true := by decide

/-- spec/95: `MULS.W #$8000,D0`. -/
theorem test_mulsW_a :
    gives (.mulsW (imm 0x8000) (dn 0)) (withRegs small [(.data 0, 0x8000)]) (fun t =>
      t.x (.data 0) = 0x40000000 ∧ t.flags = flagsOf 0 0 0 0 0) = true := by decide

/-- spec/95: `MULS.W #$7FFF,D0`. -/
theorem test_mulsW_b :
    gives (.mulsW (imm 0x7FFF) (dn 0)) (withRegs small [(.data 0, 0x8000)]) (fun t =>
      t.x (.data 0) = 0xC0008000 ∧ t.flags = flagsOf 0 1 0 0 0) = true := by decide

/-- spec/95: `MULU.W #$FFFF,D0`. -/
theorem test_muluW_a :
    gives (.muluW (imm 0xFFFF) (dn 0)) (withFlags (withRegs small [(.data 0, 0xFFFF)]) (flagsOf 1 0 0 0 0)) (fun t =>
      t.x (.data 0) = 0xFFFE0001 ∧ t.flags = flagsOf 1 1 0 0 0) = true := by decide

/-- spec/95: `MULU.W #0,D0`. -/
theorem test_muluW_b :
    gives (.muluW (imm 0) (dn 0)) (withRegs small [(.data 0, 0x1234)]) (fun t =>
      t.x (.data 0) = 0 ∧ t.flags = flagsOf 0 0 1 0 0) = true := by decide

/-- spec/95: `DIVS.W #2,D0`. -/
theorem test_divsW_a :
    gives (.divsW (imm 2) (dn 0)) (withRegs small [(.data 0, 0xFFFFFFF9)]) (fun t =>
      t.x (.data 0) = 0xFFFFFFFD ∧ t.flags = flagsOf 0 1 0 0 0) = true := by decide

/-- spec/95: `DIVS.W #-1,D0`. -/
theorem test_divsW_b :
    faults .divisionOverflow (.divsW (imm 0xFFFFFFFF) (dn 0))
      (withFlags (withRegs small [(.data 0, 0xFFFF8000)]) (flagsOf 0 0 0 1 1)) = true := by decide

/-- spec/95: `DIVU.W #$FFFF,D0`. -/
theorem test_divuW_a :
    gives (.divuW (imm 0xFFFF) (dn 0)) (withRegs small [(.data 0, 0xFFFEFFFF)]) (fun t =>
      t.x (.data 0) = 0xFFFEFFFF ∧ t.flags = flagsOf 0 1 0 0 0) = true := by decide

/-- spec/95: `DIVU.W (A0)+,D0`. -/
theorem test_divuW_b :
    faults .divisionByZero (.divuW (post 0) (dn 0))
      (withFlags (withBytes (withRegs small [(.addr 0, 0x3000), (.data 0, 9)]) 0x3000 [0, 0]) (flagsOf 0 1 0 0 0)) = true := by decide

/-- spec/95: `AND.B #$0F,D0`. -/
theorem test_andB :
    gives (.andB (imm 0xF) (dn 0)) (withFlags (withRegs small [(.data 0, 0x123456F0)]) (flagsOf 1 0 0 0 1)) (fun t =>
      t.x (.data 0) = 0x12345600 ∧ t.flags = flagsOf 1 0 1 0 0) = true := by decide

/-- spec/95: `AND.W D0,2(A0)`. -/
theorem test_andW :
    gives (.andW (dn 0) (.indirect 0 2 none .plain))
      (withBytes (withRegs small [(.data 0, 0xFF0), (.addr 0, 0x2000)]) 0x2002 [0xAB, 0xCD]) (fun t =>
      t.mem.readBytes 0x2002 2 = [0xB, 0xC0] ∧ t.flags = flagsOf 0 0 0 0 0) = true := by decide

/-- spec/95: `OR.L #$80000000,D0`. -/
theorem test_orL :
    gives (.orL (imm 0x80000000) (dn 0)) (withRegs small [(.data 0, 1)]) (fun t =>
      t.x (.data 0) = 0x80000001 ∧ t.flags = flagsOf 0 1 0 0 0) = true := by decide

/-- spec/95: `EOR.W D0,D0`. -/
theorem test_eorW :
    gives (.eorW (dn 0) (dn 0)) (withRegs small [(.data 0, 0xFFFF1234)]) (fun t =>
      t.x (.data 0) = 0xFFFF0000 ∧ t.flags = flagsOf 0 0 1 0 0) = true := by decide

/-- spec/95: `NOT.B D0`. -/
theorem test_notB :
    gives (.notB (dn 0)) (withRegs small [(.data 0, 0xFF)]) (fun t =>
      t.x (.data 0) = 0 ∧ t.flags = flagsOf 0 0 1 0 0) = true := by decide

/-- spec/95: `NOT.L D0`. -/
theorem test_notL :
    gives (.notL (dn 0)) (withRegs small [(.data 0, 0)]) (fun t =>
      t.x (.data 0) = 0xFFFFFFFF ∧ t.flags = flagsOf 0 1 0 0 0) = true := by decide

/-- spec/95: `ASL.B #2,D0`. -/
theorem test_aslB_a :
    gives (.aslB (.counted (imm 2) (dn 0))) (withRegs small [(.data 0, 0x40)]) (fun t =>
      t.x (.data 0) = 0 ∧ t.flags = flagsOf 1 0 1 1 1) = true := by decide

/-- spec/95: `ASL.B D1,D0`. -/
theorem test_aslB_b :
    gives (.aslB (.counted (dn 1) (dn 0))) (withRegs small [(.data 1, 9), (.data 0, 0xFF)]) (fun t =>
      t.x (.data 0) = 0 ∧ t.flags = flagsOf 0 0 1 1 0) = true := by decide

/-- spec/95: `ASL.W #8,D0`. -/
theorem test_aslW :
    gives (.aslW (.counted (imm 8) (dn 0))) (withRegs small [(.data 0, 0xFF)]) (fun t =>
      t.x (.data 0) = 0xFF00 ∧ t.flags = flagsOf 0 1 0 1 0) = true := by decide

/-- spec/95: `ASL.L D1,D0`. -/
theorem test_aslL_a :
    gives (.aslL (.counted (dn 1) (dn 0))) (withRegs small [(.data 1, 0x20), (.data 0, 1)]) (fun t =>
      t.x (.data 0) = 0 ∧ t.flags = flagsOf 1 0 1 1 1) = true := by decide

/-- spec/95: `ASL.L D1,D0`. -/
theorem test_aslL_b :
    gives (.aslL (.counted (dn 1) (dn 0)))
      (withFlags (withRegs small [(.data 1, 0), (.data 0, 0x80000000)]) (flagsOf 1 0 0 1 1)) (fun t =>
      t.x (.data 0) = 0x80000000 ∧ t.flags = flagsOf 1 1 0 0 0) = true := by decide

/-- spec/95: `ASR.B #1,D0`. -/
theorem test_asrB :
    gives (.asrB (.counted (imm 1) (dn 0))) (withRegs small [(.data 0, 0x81)]) (fun t =>
      t.x (.data 0) = 0xC0 ∧ t.flags = flagsOf 1 1 0 0 1) = true := by decide

/-- spec/95: `ASR.W D1,D0`. -/
theorem test_asrW_a :
    gives (.asrW (.counted (dn 1) (dn 0))) (withRegs small [(.data 1, 0x10), (.data 0, 0x8000)]) (fun t =>
      t.x (.data 0) = 0xFFFF ∧ t.flags = flagsOf 1 1 0 0 1) = true := by decide

/-- spec/95: `ASR.W (A0)`. -/
theorem test_asrW_b :
    gives (.asrW (.memory (at0 0))) (withBytes (withRegs small [(.addr 0, 0x2000)]) 0x2000 [0x80, 1]) (fun t =>
      t.mem.readBytes 0x2000 2 = [0xC0, 0] ∧ t.flags = flagsOf 1 1 0 0 1) = true := by decide

/-- spec/95: `ASR.L #2,D0`. -/
theorem test_asrL :
    gives (.asrL (.counted (imm 2) (dn 0))) (withRegs small [(.data 0, 0xFFFFFFF8)]) (fun t =>
      t.x (.data 0) = 0xFFFFFFFE ∧ t.flags = flagsOf 0 1 0 0 0) = true := by decide

/-- spec/95: `LSL.B #1,D0`. -/
theorem test_lslB :
    gives (.lslB (.counted (imm 1) (dn 0))) (withRegs small [(.data 0, 0x80)]) (fun t =>
      t.x (.data 0) = 0 ∧ t.flags = flagsOf 1 0 1 0 1) = true := by decide

/-- spec/95: `LSL.W D0,D0`. -/
theorem test_lslW :
    gives (.lslW (.counted (dn 0) (dn 0))) (withRegs small [(.data 0, 3)]) (fun t =>
      t.x (.data 0) = 0x18 ∧ t.flags = flagsOf 0 0 0 0 0) = true := by decide

/-- spec/95: `LSL.L D1,D0`. -/
theorem test_lslL_a :
    gives (.lslL (.counted (dn 1) (dn 0))) (withRegs small [(.data 1, 0x20), (.data 0, 1)]) (fun t =>
      t.x (.data 0) = 0 ∧ t.flags = flagsOf 1 0 1 0 1) = true := by decide

/-- spec/95: `LSL.L D1,D0`. -/
theorem test_lslL_b :
    gives (.lslL (.counted (dn 1) (dn 0))) (withRegs small [(.data 1, 0x21), (.data 0, 0xFFFFFFFF)]) (fun t =>
      t.x (.data 0) = 0 ∧ t.flags = flagsOf 0 0 1 0 0) = true := by decide

/-- spec/95: `LSR.B #1,D0`. -/
theorem test_lsrB :
    gives (.lsrB (.counted (imm 1) (dn 0))) (withRegs small [(.data 0, 1)]) (fun t =>
      t.x (.data 0) = 0 ∧ t.flags = flagsOf 1 0 1 0 1) = true := by decide

/-- spec/95: `LSR.W D1,D0`. -/
theorem test_lsrW :
    gives (.lsrW (.counted (dn 1) (dn 0))) (withRegs small [(.data 1, 0x10), (.data 0, 0x8000)]) (fun t =>
      t.x (.data 0) = 0 ∧ t.flags = flagsOf 1 0 1 0 1) = true := by decide

/-- spec/95: `LSR.L #8,D0`. -/
theorem test_lsrL :
    gives (.lsrL (.counted (imm 8) (dn 0))) (withRegs small [(.data 0, 0x80000000)]) (fun t =>
      t.x (.data 0) = 0x800000 ∧ t.flags = flagsOf 0 0 0 0 0) = true := by decide

/-- spec/95: `ROL.B #1,D0`. -/
theorem test_rolB_a :
    gives (.rolB (.counted (imm 1) (dn 0))) (withFlags (withRegs small [(.data 0, 0x80)]) (flagsOf 1 0 0 0 0)) (fun t =>
      t.x (.data 0) = 1 ∧ t.flags = flagsOf 1 0 0 0 1) = true := by decide

/-- spec/95: `ROL.B D1,D0`. -/
theorem test_rolB_b :
    gives (.rolB (.counted (dn 1) (dn 0)))
      (withFlags (withRegs small [(.data 1, 0), (.data 0, 0x80)]) (flagsOf 0 0 0 0 1)) (fun t =>
      t.x (.data 0) = 0x80 ∧ t.flags = flagsOf 0 1 0 0 0) = true := by decide

/-- spec/95: `ROL.W D1,D0`. -/
theorem test_rolW_a :
    gives (.rolW (.counted (dn 1) (dn 0))) (withRegs small [(.data 1, 0x10), (.data 0, 0x8001)]) (fun t =>
      t.x (.data 0) = 0x8001 ∧ t.flags = flagsOf 0 1 0 0 1) = true := by decide

/-- spec/95: `ROL.W $2000`. -/
theorem test_rolW_b :
    gives (.rolW (.memory (.absolute 0x2000))) (withBytes small 0x2000 [0x80, 0]) (fun t =>
      t.mem.readBytes 0x2000 2 = [0, 1] ∧ t.flags = flagsOf 0 0 0 0 1) = true := by decide

/-- spec/95: `ROL.L #4,D0`. -/
theorem test_rolL :
    gives (.rolL (.counted (imm 4) (dn 0))) (withRegs small [(.data 0, 0xF0000000)]) (fun t =>
      t.x (.data 0) = 0xF ∧ t.flags = flagsOf 0 0 0 0 1) = true := by decide

/-- spec/95: `ROR.B #1,D0`. -/
theorem test_rorB :
    gives (.rorB (.counted (imm 1) (dn 0))) (withRegs small [(.data 0, 1)]) (fun t =>
      t.x (.data 0) = 0x80 ∧ t.flags = flagsOf 0 1 0 0 1) = true := by decide

/-- spec/95: `ROR.W D1,D0`. -/
theorem test_rorW :
    gives (.rorW (.counted (dn 1) (dn 0))) (withRegs small [(.data 1, 0x20), (.data 0, 0x8001)]) (fun t =>
      t.x (.data 0) = 0x8001 ∧ t.flags = flagsOf 0 1 0 0 1) = true := by decide

/-- spec/95: `ROR.L #8,D0`. -/
theorem test_rorL :
    gives (.rorL (.counted (imm 8) (dn 0))) (withRegs small [(.data 0, 0xAB)]) (fun t =>
      t.x (.data 0) = 0xAB000000 ∧ t.flags = flagsOf 0 1 0 0 1) = true := by decide

/-- spec/95: `NEG.B D0`. -/
theorem test_negB :
    gives (.negB (dn 0)) (withRegs small [(.data 0, 0x80)]) (fun t =>
      t.x (.data 0) = 0x80 ∧ t.flags = flagsOf 1 1 0 1 1) = true := by decide

/-- spec/95: `NEG.W D0`. -/
theorem test_negW :
    gives (.negW (dn 0)) (withRegs small [(.data 0, 0xAAAA0001)]) (fun t =>
      t.x (.data 0) = 0xAAAAFFFF ∧ t.flags = flagsOf 1 1 0 0 1) = true := by decide

/-- spec/95: `NEG.L D0`. -/
theorem test_negL :
    gives (.negL (dn 0)) (withFlags (withRegs small [(.data 0, 0)]) (flagsOf 1 0 0 0 0)) (fun t =>
      t.x (.data 0) = 0 ∧ t.flags = flagsOf 0 0 1 0 0) = true := by decide

/-- spec/95: `EXT.W D0`. -/
theorem test_extW_a :
    gives (.extW (dn 0)) (withRegs small [(.data 0, 0xABCD0080)]) (fun t =>
      t.x (.data 0) = 0xABCDFF80 ∧ t.flags = flagsOf 0 1 0 0 0) = true := by decide

/-- spec/95: `EXT.W D0`. -/
theorem test_extW_b :
    gives (.extW (dn 0)) (withRegs small [(.data 0, 0xFFFFFF00)]) (fun t =>
      t.x (.data 0) = 0xFFFF0000 ∧ t.flags = flagsOf 0 0 1 0 0) = true := by decide

/-- spec/95: `EXT.L D0`. -/
theorem test_extL :
    gives (.extL (dn 0)) (withRegs small [(.data 0, 0xABCD7FFF)]) (fun t =>
      t.x (.data 0) = 0x7FFF ∧ t.flags = flagsOf 0 0 0 0 0) = true := by decide

/-- spec/95: `SWAP D0`. -/
theorem test_swapW_a :
    gives (.swapW (dn 0)) (withFlags (withRegs small [(.data 0, 0x12345678)]) (flagsOf 1 0 0 0 0)) (fun t =>
      t.x (.data 0) = 0x56781234 ∧ t.flags = flagsOf 1 0 0 0 0) = true := by decide

/-- spec/95: `SWAP D0`. -/
theorem test_swapW_b :
    gives (.swapW (dn 0)) (withRegs small [(.data 0, 0x8000)]) (fun t =>
      t.x (.data 0) = 0x80000000 ∧ t.flags = flagsOf 0 1 0 0 0) = true := by decide

/-- spec/95: `BTST #32,D0`. -/
theorem test_btstL_a :
    gives (.btstL (imm 0x20) (dn 0)) (withFlags (withRegs small [(.data 0, 1)]) (flagsOf 0 1 0 0 1)) (fun t =>
      t.flags = flagsOf 0 1 0 0 1 ∧ t.flags.z = false) = true := by decide

/-- spec/95: `BTST #31,D0`. -/
theorem test_btstL_b :
    gives (.btstL (imm 0x1F) (dn 0)) (withRegs small [(.data 0, 0x7FFFFFFF)]) (fun t =>
      t.flags = flagsOf 0 0 1 0 0) = true := by decide

/-- spec/95: `BTST #0,(A0)+`. -/
theorem test_btstB :
    gives (.btstB (imm 0) (post 0)) (withBytes (withRegs small [(.addr 0, 0x2000)]) 0x2000 [1]) (fun t =>
      t.x (.addr 0) = 0x2001 ∧ t.flags.z = false) = true := by decide

/-- spec/95: `BCLR #0,D0`. -/
theorem test_bclrL :
    gives (.bclrL (imm 0) (dn 0)) (withRegs small [(.data 0, 0xFFFFFFFF)]) (fun t =>
      t.x (.data 0) = 0xFFFFFFFE ∧ t.flags.z = false) = true := by decide

/-- spec/95: `BSET D2,D2`. -/
theorem test_bsetL :
    gives (.bsetL (dn 2) (dn 2)) (withRegs small [(.data 2, 0x21)]) (fun t =>
      t.x (.data 2) = 0x23 ∧ t.flags.z = true) = true := by decide

/-- spec/95: `BSET #15,$2000`. -/
theorem test_bsetB :
    gives (.bsetB (imm 0xF) (.absolute 0x2000)) (withBytes small 0x2000 [0]) (fun t =>
      t.mem.readBytes 0x2000 1 = [0x80] ∧ t.flags.z = true) = true := by decide

/-- spec/95: `BCHG D1,D0`. -/
theorem test_bchgL :
    gives (.bchgL (dn 1) (dn 0)) (withRegs small [(.data 1, 0x3F), (.data 0, 0)]) (fun t =>
      t.x (.data 0) = 0x80000000 ∧ t.flags.z = true ∧ t.flags.n = false) = true := by decide

/-- spec/95: `JSR (A7)`. -/
theorem test_jsr :
    gives (.jsr (at0 7)) (withRegs small [(.addr 7, 0x8000)]) (fun t =>
      t.x (.addr 7) = 0x7FFC ∧ t.mem.readBytes 0x7FFC 4 = [0, 0, 0, 4] ∧ t.pc = 0x8000) = true := by decide

/-- spec/95: `RTS`. -/
theorem test_rts :
    faults .addressOutOfBounds (.rts ) (withRegs small [(.addr 7, 0x10000)]) = true := by decide

/-- spec/95: `DBF D0,t`. -/
theorem test_dbfW_a :
    gives (.dbfW (dn 0) (.address 0)) (withRegs small [(.data 0, 0x50000)]) (fun t =>
      t.x (.data 0) = 0x5FFFF ∧ t.pc = 4) = true := by decide

/-- spec/95: `DBF D0,t`. -/
theorem test_dbfW_b :
    gives (.dbfW (dn 0) (.address 0)) (withFlags (withRegs small [(.data 0, 0xFFFF)]) (flagsOf 0 1 0 0 0)) (fun t =>
      t.x (.data 0) = 0xFFFE ∧ t.flags = flagsOf 0 1 0 0 0 ∧ t.pc = 0) = true := by decide

/-- spec/95: `DBEQ D0,t`. -/
theorem test_dbeqW :
    gives (.dbeqW (dn 0) (.address 8)) (withFlags (withRegs small [(.data 0, 5)]) (flagsOf 0 0 1 0 0)) (fun t =>
      t.x (.data 0) = 5 ∧ t.pc = 4) = true := by decide

/-- spec/95: `ST -(A7)`. -/
theorem test_stB :
    gives (.stB (pre 7)) small (fun t =>
      t.x (.addr 7) = 0xFFFE ∧ t.mem.readBytes 0xFFFE 2 = [0xFF, 0]) = true := by decide

/-- spec/95: `SGE D0`. -/
theorem test_sgeB :
    gives (.sgeB (dn 0)) (withFlags (withRegs small [(.data 0, 0x11223344)]) (flagsOf 0 1 0 0 0)) (fun t =>
      t.x (.data 0) = 0x11223300) = true := by decide

/-- spec/95: `SLT D0`. -/
theorem test_sltB :
    gives (.sltB (dn 0)) (withFlags (withRegs small [(.data 0, 0x11223344)]) (flagsOf 0 1 0 0 0)) (fun t =>
      t.x (.data 0) = 0x112233FF) = true := by decide

/-- spec/95: `LEA 0(A0,D1.W),A2`. -/
theorem test_leaL_a :
    gives (.leaL (.indirect 0 0 (some { reg := .data 1, size := .word }) .plain) (an 2))
      (withRegs small [(.addr 0, 0x10000), (.data 1, 0x18000)]) (fun t =>
      t.x (.addr 2) = 0x8000 ∧ t.flags = flagsOf 0 0 0 0 0) = true := by decide

/-- spec/95: `LEA $FFFFFFFF,A0`. -/
theorem test_leaL_b :
    gives (.leaL (.absolute 0xFFFFFFFF) (an 0)) small (fun t =>
      t.x (.addr 0) = 0xFFFFFFFF ∧ t.flags = flagsOf 0 0 0 0 0) = true := by decide

/-- spec/95: `PEA (A7)`. -/
theorem test_peaL :
    gives (.peaL (at0 7)) small (fun t =>
      t.x (.addr 7) = 0xFFFC ∧ t.mem.readBytes 0xFFFC 4 = [0, 1, 0, 0] ∧ t.flags = flagsOf 0 0 0 0 0) = true := by decide

/-- spec/95: `LINK A6,#-8`. -/
theorem test_link :
    gives (.link (an 6) (imm 0xFFFFFFF8)) (withRegs small [(.addr 6, 0x11112222), (.addr 7, 0x2000)]) (fun t =>
      t.x (.addr 6) = 0x1FFC ∧ t.x (.addr 7) = 0x1FF4 ∧ t.mem.readBytes 0x1FFC 4 = [0x11, 0x11, 0x22, 0x22] ∧
      t.flags = flagsOf 0 0 0 0 0) = true := by decide

/-- spec/95: `UNLK A6`. -/
theorem test_unlk :
    faults .addressOutOfBounds (.unlk (an 6)) (withRegs small [(.addr 6, 0xFFFE)]) = true := by decide

/-- spec/95: `MOVEM.W D0/D7/A7,(A0)`. -/
theorem test_movemWStore :
    gives (.movemWStore 0x8081 (at0 0))
      (withRegs small [(.data 0, 0x1234ABCD), (.data 7, 0x5678EF01), (.addr 7, 0x9ABC2345), (.addr 0, 0x3000)]) (fun t =>
      t.mem.readBytes 0x3000 6 = [0xAB, 0xCD, 0xEF, 1, 0x23, 0x45] ∧ t.flags = flagsOf 0 0 0 0 0) = true := by decide

/-- spec/95: `MOVEM.L D0-D1/A0,-(A7)`. -/
theorem test_movemLStore_a :
    gives (.movemLStore 0x103 (pre 7))
      (withRegs small [(.data 0, 0x11111111), (.data 1, 0x22222222), (.addr 0, 0xAAAAAAAA), (.addr 7, 0x2000)]) (fun t =>
      t.x (.addr 7) = 0x1FF4 ∧
      t.mem.readBytes 0x1FF4 12 = [0x11, 0x11, 0x11, 0x11, 0x22, 0x22, 0x22, 0x22, 0xAA, 0xAA, 0xAA, 0xAA] ∧
      t.flags = flagsOf 0 0 0 0 0) = true := by decide

/-- spec/95: `MOVEM.L D0-D7,-(A7)`. -/
theorem test_movemLStore_b :
    faults .addressOutOfBounds (.movemLStore 0xFF (pre 7)) (withRegs small [(.addr 7, 0x10)]) = true := by decide

/-- spec/95: `MOVEM.W (A0)+,D0/A1`. -/
theorem test_movemWLoad :
    gives (.movemWLoad (post 0) 0x201)
      (withBytes (withRegs small [(.data 0, 0x12345678), (.addr 0, 0x3000)]) 0x3000 [0x80, 1, 0xFF, 0xFE]) (fun t =>
      t.x (.data 0) = 0x12348001 ∧ t.x (.addr 1) = 0xFFFFFFFE ∧ t.x (.addr 0) = 0x3004 ∧
      t.flags = flagsOf 0 0 0 0 0) = true := by decide

/-- spec/95: `MOVEM.L 4(A0),A0`. -/
theorem test_movemLLoad :
    gives (.movemLLoad (.indirect 0 4 none .plain) 0x100)
      (withBytes (withRegs small [(.addr 0, 0x3000)]) 0x3004 [0, 0, 0x40, 0]) (fun t =>
      t.x (.addr 0) = 0x4000 ∧ t.flags = flagsOf 0 0 0 0 0) = true := by decide

/-- spec/95: `TRAP #15`. -/
theorem test_trap_a :
    faults .illegalInstruction (.trap (imm 0xF)) (withRegs small [(.data 0, 0x100)]) = true := by decide

/-- spec/95: `TRAP #15`. -/
theorem test_trap_b :
    faults .addressOutOfBounds (.trap (imm 0xF))
      (withRegs small [(.data 0, 0), (.addr 1, 0xFFFE), (.data 1, 3)]) = true := by decide

/-- spec/95 2.8: `BEQ t`, `t = 0x20`, taken and not taken. -/
theorem test_beq :
    gives (.beq (.address 0x20)) (withFlags small (flagsOf 0 0 1 0 0)) (fun t => t.pc = 0x20) = true ∧
    gives (.beq (.address 0x20)) small (fun t => t.pc = 4) = true := by decide

/-- spec/95 2.8: `BSR t`, `t = 8` at `pc = 0`. -/
theorem test_bsr :
    gives (.bsr (.address 8)) small (fun t =>
      t.x .sp = 0xFFFC ∧ t.mem.readBytes 0xFFFC 4 = [0, 0, 0, 4] ∧ t.pc = 8) = true := by decide

/-- spec/95 2.7, the row `0 1 1 1` (flags `N Z V C`) at LS, CC, GE, LE. -/
theorem test_conditions :
    [Cond.ls, .cc, .ge, .le].map (fun k => Machine.cond k (flagsOf 0 0 1 1 1)) = [true, false, false, true] := by decide

/-! ## Steps -/

/-- spec/95 2.8: `BRA t`, `t = 8` with two entries ends the program; `t = 0x0C` does not. -/
theorem test_endCheck :
    ends (step (withProgram small [.bra (.address 8), .rts])) (fun t => t.status = .terminated ∧ t.reachedBottom) = true ∧
    ends (step (withProgram small [.bra (.address 0x0C), .rts])) (fun t => t.status = .running ∧ t.pc = 0x0C) = true := by
  decide

/-- spec/95 2.8: a fetch at `pc = 6` faults. -/
theorem test_fetch_fault :
    ends (step { withProgram small [.rts, .rts] with pc := 6 })
      (fun t => t.reason = some .illegalInstruction ∧ t.pc = 6) = true := by decide

/-- spec/95 2.10: `TRAP #15` with task 3, and the answer that ends at the bottom. -/
theorem test_trap_answer :
    ends (step (withProgram (withRegs small [(.data 0, 3), (.data 1, 0xFFFFFFFF)]) [.trap (imm 15)])) (fun t =>
      t.curInterrupt = some (.displayNumber (-1)) ∧ t.status = .interrupt ∧ t.pc = 4 ∧
      (answerInterrupt .displayNumber t).1.status = .terminated ∧ (answerInterrupt .displayNumber t).1.reachedBottom)
      = true := by decide

/-- spec/95 2.10: `ReadKeyboardString` of two bytes at `A1 = 0x2000`, and at `0xFFFF`, where it faults. -/
theorem test_answer_keyboard :
    let s := { withRegs small [(.data 1, 0xAAAA0000), (.addr 1, 0x2000)] with
      status := .interrupt, curInterrupt := some .readKeyboardString }
    (answerInterrupt (.readKeyboardString [0x61, 0x62]) s).1.x (.data 1) = 0xAAAA0002 ∧
    (answerInterrupt (.readKeyboardString [0x61, 0x62]) s).1.mem.readBytes 0x2000 3 = [0x61, 0x62, 0] ∧
    (answerInterrupt (.readKeyboardString [0x61, 0x62]) (s.withReg (.addr 1) 0xFFFF)).2
      = .faulted .addressOutOfBounds := by decide

/-- spec/95 2.10: an answer with another tag is rejected; `step` without an answer faults. -/
theorem test_answer_rejected :
    let s := { small with status := .interrupt, curInterrupt := some (.displayNumber 0) }
    answerInterrupt (.readNumber 1) s = (s, .rejected .interruptMismatch) ∧
    answerInterrupt .displayNumber small = (small, .notInterrupt) ∧
    ends (step s) (fun t => t = takeFault .unansweredInterrupt s) = true := by decide

/-- R326, R77: the list of `MOVE.B D0,$10`: the byte, the flags, `pc` last; its inverses restore `pc` too. -/
theorem test_mutations :
    ends (step (withProgram small [.moveB (dn 0) (.absolute 0x10), .rts])) (fun t =>
      getPreviousMutations t = [.writeMemory 0x10 [0] .B, .writeFlags small.flags, .writePc 0]) = true := by decide

/-- R325 (a), R310 row 8: a run variant called in status Interrupt, with an answer at hand, ends the run. -/
theorem test_run_in_interrupt :
    let s := { small with status := .interrupt, curInterrupt := some .readChar, answers := [.readChar 0x41] }
    ends (runWithLimit 0 s) (fun t => t = takeFault .unansweredInterrupt s) = true ∧
    ends (runWithBreakpoints [4] 3 s) (fun t => t = takeFault .unansweredInterrupt s) = true := by decide

/-- R363: the result of a run with its host: the record shown, a wrong answer, the right one, and the end. -/
theorem test_hostRun :
    let s := { withProgram (withRegs small [(.data 0, 5), (.data 1, 0x12345678)]) [.trap (imm 15)] with
      answers := [.displayNumber, .readChar 0x41] }
    (match hostRun 9 s with
      | .next r => decide (r.state.x (.data 1) = 0x12345641 ∧ r.state.status = .terminated ∧ r.exchanges =
          [{ record := .readChar, answer := some (.displayNumber, .rejected .interruptMismatch) },
           { record := .readChar, answer := some (.readChar 0x41, .accepted) }])
      | .fault _ => false
      | .refused _ => false) = true := by decide

/-- R170, R184, R187, D15: an address register is no destination of MOVE, ADDQ, SUBQ at any size. -/
theorem test_no_dest_an :
    refuses .formNotAdmitted (.moveB (dn 0) (an 0)) small = true ∧ refuses .formNotAdmitted (.moveL (dn 0) (an 0)) small = true ∧
    refuses .formNotAdmitted (.addqB (imm 1) (an 0)) small = true ∧
    refuses .formNotAdmitted (.subqB (imm 1) (an 0)) small = true ∧
    faults .illegalAddressingMode (.moveB (an 0) (dn 0)) small = true := by decide

/-- R188, R213: CMP to anything but `Dn`, EOR from anything but `Dn` are refused; `CMP.B An,Dn` and `EOR.B Dn,An` raise
(R104 (a)). -/
theorem test_byte_an_compare_eor :
    refuses .formNotAdmitted (.cmpB (dn 0) (an 0)) small = true ∧ refuses .formNotAdmitted (.cmpB (an 0) (at0 1)) small = true ∧
    faults .illegalAddressingMode (.cmpB (an 0) (dn 0)) small = true ∧
    refuses .formNotAdmitted (.eorB (an 0) (dn 0)) small = true ∧ refuses .formNotAdmitted (.eorB (imm 1) (an 0)) small = true ∧
    faults .illegalAddressingMode (.eorB (dn 0) (an 0)) small = true := by decide

/-- R327: `undo` after a store restores the byte, the flags and `pc`. -/
theorem test_undo :
    let s := withProgram (withRegs small [(.data 0, 0xAB)]) [.moveB (dn 0) (.absolute 0x10), .rts]
    ends (step s) (fun t => (undo t).map (fun u => (u.mem, u.flags, u.pc)) = some (s.mem, s.flags, s.pc)) = true := by
  decide

/-- spec/95 1.3: flags `1 0 1 0 1` read as `0x15`. -/
theorem test_ccr : ccrByte (flagsOf 1 0 1 0 1) = 0x15 ∧ flagsArray (flagsOf 1 0 1 0 1) = [true, false, true, false, true] := by
  decide

/-- R65: the odd word access that `MISALIGNED = fault` faults and `allow` does not; bounds before alignment (R314 (c)). -/
theorem test_misaligned :
    faults .misalignedAccess (.tstW (.absolute 0x11)) strict = true ∧
    gives (.tstW (.absolute 0x11)) small (fun t => t.pc = 4) = true ∧
    faults .addressOutOfBounds (.tstW (.absolute 0xFFFF)) strict = true ∧
    gives (.tstB (.absolute 0xFFFF)) strict (fun t => t.pc = 4) = true := by decide

/-- The host's placing of a bare descriptor runs it as the first instruction after reset (log 8). -/
theorem test_withFetchWord :
    decodeTableWord 16 0x0280 = some (.moveqL (imm 0) (dn 0)) ∧
    ends (step (State.reset.withFetchWord 16 0x0280)) (fun t => t.flags.z ∧ t.pc = 4) = true := by decide


/-! ## Witnesses: for each obligation with hypotheses, values that meet them together, each clause at an edge of its range -/

/-- `A0 = 0x2000`, four bytes there, `D1 = 5`. -/
def data0 : State := withBytes (withRegs small [(.addr 0, 0x2000), (.data 1, 5)]) 0x2000 [0x80, 1, 2, 3]

/-- `data0` after `(A0)+` and after `-(A0)`, at size `W`. -/
def stepped : State := data0.putReg (.addr 0) 0x2002 .L
def lowered : State := data0.putReg (.addr 0) 0x1FFE .L

theorem reads_immediate : Reads (imm 7) .W data0 (.imm 7) data0 7 := ⟨rfl, rfl⟩
theorem reads_register : Reads (dn 1) .W data0 (.reg (.data 1)) data0 5 := ⟨rfl, rfl⟩
theorem reads_memory : Reads (post 0) .W data0 (.mem 0x2000) stepped 0x8001 := ⟨rfl, rfl⟩
theorem reads_lowered : Reads (pre 0) .W data0 (.mem 0x1FFE) lowered 0 := ⟨rfl, rfl⟩
theorem reads_byte : Reads (post 0) .B data0 (.mem 0x2000) (data0.putReg (.addr 0) 0x2001 .L) 0x80 := ⟨rfl, rfl⟩
theorem reads_last : Reads (.absolute 0xFFFC) .L data0 (.mem 0xFFFC) data0 0 := ⟨rfl, rfl⟩

/-- A program that stores, then would return. -/
def stores : State := withProgram data0 [.moveB (dn 1) (.absolute 0x10), .rts]

theorem stores_inv : Machine.Inv stores where
  memCanonical := by decide
  memInside := by decide
  sizeLegal := by decide
  tableFits := by decide
  slotFilled := by decide
  slotShort := nofun
  reasonKept := by decide
  bottomAtEnd := nofun
  notAtEnd := by decide
  entryClosed := rfl
  ringBounded := by decide
  ringOff := nofun

/-- A step that ends in a state. -/
theorem step_of_ends {s : State} {p : State → Bool} (h : ends (step s) p = true) : ∃ t, step s = .next t ∧ p t = true := by
  unfold ends at h
  split at h
  · exact ⟨_, ‹_›, h⟩
  · cases h
  · cases h

/-- An instruction that ends in a state. -/
theorem exec_of_gives {i : Instr} {s : State} {p : State → Bool} (h : gives i s p = true) :
    ∃ t, exec i s = .next t ∧ p t = true := by
  unfold gives ends at h
  split at h
  · exact ⟨_, ‹_›, h⟩
  · cases h
  · cases h

theorem witness_EncodeDecode : ∃ e i, decode e = .ok i := ⟨_, _, RoundTrip.moveB (dn 0) (dn 1)⟩

theorem witness_AdmittedFormsExecute : ∃ i : Instr, i.wellFormed = true := ⟨.moveB (dn 0) (dn 1), by decide⟩

theorem witness_FormsOutsideTheTable : (at0 0).isDataAlt = true ∧
    Reads (post 0) .B data0 (.mem 0x2000) (data0.putReg (.addr 0) 0x2001 .L) 0x80 ∧ (post 0).isData = true ∧
    ((at0 0).isDataAlt || (at0 0).isAn) = true ∧ ((an 7).isDataAlt || (an 7).isAn) = true ∧ (dn 7).isDn = true ∧
    Reads (dn 1) .B data0 (.reg (.data 1)) data0 5 ∧ (dn 1).isData = true ∧
    ((imm 1).isImmIn 1 8 || (imm 1).isDn) = true ∧ ((imm 8).isImmIn 1 8 || (imm 8).isDn) = true ∧
    ((imm 0).isImm || (imm 0).isDn) = true ∧ ((dn 7).isImm || (dn 7).isDn) = true ∧
    (an 0).isDn = false ∧ (at0 0).isDn = false ∧ (imm 0).isDn = false ∧ (14 : Word) ≠ 15 ∧ (16 : Word) ≠ 15 ∧
    (Instr.leaL (post 0) (an 0)).wellFormed = false ∧ (Instr.leaL (post 0) (an 0)).shape.byteOnAddr = false ∧
    (Instr.leaL (post 0) (an 0)).shape.otherVector = false :=
  ⟨by decide, reads_byte, by decide, by decide, by decide, by decide, ⟨rfl, rfl⟩, by decide⟩

/-- The least and the greatest memory, with an image byte at the last address of each. -/
theorem witness_BootState :
    let p : CompiledProgram := { program := stores.program, image := [(1, 7)] }
    let q : CompiledProgram := { program := stores.program, image := [(2 ^ 32 - 1, 7)] }
    bootAdmits p [(1, 9)] { small.options with memSize := 2 } = true ∧
    bootAdmits q [(0, 9)] { small.options with memSize := 2 ^ 32 } = true := by decide

theorem witness_StepKeepsInv : ∃ s t, Machine.Inv s ∧ step s = .next t := by
  obtain ⟨t, h, -⟩ := step_of_ends (s := stores) (p := fun _ => true) (by decide)
  exact ⟨_, _, stores_inv, h⟩

/-- An entry that runs, and one that is refused. -/
theorem witness_StepRunsDecodedInstruction :
    (∃ line i u, stores.undone = false ∧ stores.status = .running ∧ fetch stores = some line ∧
      decode line.entry = .ok i ∧ exec i stores = .next u) ∧
    (∃ line, fetch (withProgram data0 [.leaL (post 0) (an 0)]) = some line ∧
      decode line.entry = .ok (.leaL (post 0) (an 0)) ∧
      exec (.leaL (post 0) (an 0)) (withProgram data0 [.leaL (post 0) (an 0)]) = .refused .formNotAdmitted) := by
  obtain ⟨u, h, -⟩ := exec_of_gives (i := .moveB (dn 1) (.absolute 0x10)) (s := stores) (p := fun _ => true) (by decide)
  exact ⟨⟨_, _, u, rfl, rfl, rfl, RoundTrip.moveB _ _, h⟩, _, rfl, RoundTrip.leaL _ _, rfl⟩

/-- `pc` just past the table, `pc` off the raster inside it, the last entry, and an entry that denotes nothing. -/
theorem witness_FetchFaults :
    instrEnd { stores with pc := 8 }.program ≤ ({ stores with pc := 8 } : State).pc.toNat ∧
    ({ stores with pc := 7 } : State).pc.toNat % 4 ≠ 0 ∧
    1 < stores.program.lines.length ∧ ({ stores with pc := 4 } : State).pc.toNat = 4 * 1 ∧
    opcode (0x0000 : BitVec 16) = none := ⟨by decide, by decide, by decide, by decide, rfl⟩

theorem witness_StepOutsideRunning :
    (State.reset.undone = false ∧ State.reset.status = .terminated) ∧
    (let s : State := { data0 with status := .interrupt, curInterrupt := some .readChar };
      s.undone = false ∧ s.status = .interrupt ∧ s.answers = []) ∧
    (let s : State := { data0 with status := .interrupt, curInterrupt := some .readChar, answers := [.readChar 0x41] };
      s.undone = false ∧ s.status = .interrupt ∧ s.answers = .readChar 0x41 :: []) := by decide

/-- A `DIVU` by zero in a program. -/
theorem witness_FaultRollsBack : ∃ s t, s.status = .running ∧ step s = .next t ∧ t.status = .terminatedWithException := by
  obtain ⟨t, h, hp⟩ := step_of_ends (s := withProgram data0 [.divuW (imm 0) (dn 0)])
    (p := fun t => t.status = .terminatedWithException) (by decide)
  exact ⟨_, t, rfl, h, by simpa using hp⟩

/-- Each change of status has a step: the bottom, task 9, a task that asks, a fault, an answer, an answer at the bottom, no
answer, and the two terminal states. -/
theorem witness_StatusTransitions :
    ends (step (withProgram data0 [.bra (.address 4)])) (fun t => t.status = .terminated ∧ t.reachedBottom) = true ∧
    ends (step (withProgram (withRegs data0 [(.data 0, 9)]) [.trap (imm 15)])) (fun t => t.status = .terminated) = true ∧
    ends (step (withProgram (withRegs data0 [(.data 0, 8)]) [.trap (imm 15)])) (fun t => t.status = .interrupt) = true ∧
    ends (step (withProgram (withRegs data0 [(.data 0, 7)]) [.trap (imm 15)]))
      (fun t => t.status = .terminatedWithException) = true ∧
    (let s : State := { stores with status := .interrupt, curInterrupt := some .readChar, answers := [.readChar 0x41] };
      ends (step s) (fun t => t.status = .running) = true ∧
      ends (step { s with pc := 8 }) (fun t => t.status = .terminated) = true ∧
      ends (step { s with answers := [] }) (fun t => t.status = .terminatedWithException) = true) ∧
    ends (step State.reset) (fun t => t.status = .terminated) = true ∧
    ends (step (takeFault .divisionByZero stores)) (fun t => t.status = .terminatedWithException) = true := by decide

theorem witness_ProgramConstant : ∃ s t, step s = .next t := by
  obtain ⟨s, t, -, h⟩ := witness_StepKeepsInv; exact ⟨s, t, h⟩

theorem witness_CheckedProgramRuns : stores.program.checked = true ∧ stores.undone = false := by decide

/-- An instruction of every row of the matrix answers a state. -/
theorem witness_FlagMatrix :
    [Instr.addaW (imm 1) (an 0), .beq (.address 0), .jsr (at0 0), .dbfW (dn 0) (.address 0), .stB (dn 0),
      .leaL (at0 0) (an 0), .peaL (at0 0), .link (an 0) (imm 0), .unlk (an 0), .movemWStore 1 (at0 0),
      .movemWLoad (at0 0) 1, .trap (imm 15), .btstL (imm 0) (dn 0), .moveB (dn 0) (dn 0), .moveqL (imm 0) (dn 0),
      .cmpB (dn 0) (dn 0), .andB (dn 0) (dn 0), .eorB (dn 0) (dn 0), .mulsW (dn 0) (dn 0), .extW (dn 0), .tstB (dn 0),
      .rolB (.counted (imm 1) (dn 0)), .addB (dn 0) (dn 0), .addqB (imm 1) (dn 0)].all
        (fun i => gives i data0 (fun t => t.status ≠ .terminatedWithException)) = true ∧
    gives .rts (withRegs data0 [(.addr 7, 0x2000)]) (fun t => t.status ≠ .terminatedWithException) = true := by decide

theorem fetch_options (s : State) (o : Options) : fetch { s with options := o } = fetch s := rfl

/-- History on with room, on without room, and off. -/
theorem witness_HistoryPolicy : ∀ o ∈ [small.options, { small.options with historySize := 0 },
      { small.options with keepHistory := false }],
    ∃ line t, stores.status = .running ∧ fetch { stores with options := o } = some line ∧
      step { stores with options := o } = .next t := by
  intro o ho
  have h : ends (step { stores with options := o }) (fun _ => true) = true := by revert o; decide
  obtain ⟨t, h, -⟩ := step_of_ends h
  exact ⟨{ entry := encode (.moveB (dn 1) (.absolute 0x10)), parsedLine := { text := "", lineIndex := 0 } }, t, rfl, (fetch_options stores o).trans rfl, h⟩

/-- The least ring that keeps an entry. -/
theorem witness_UndoRestores : ∃ t line, Machine.Inv stores ∧ stores.status = .running ∧ fetch stores = some line ∧
    step stores = .next t ∧ stores.options.keepHistory = true ∧ 0 < stores.options.historySize := by
  obtain ⟨t, h, -⟩ := step_of_ends (s := stores) (p := fun _ => true) (by decide)
  exact ⟨t, _, stores_inv, rfl, rfl, h, rfl, by decide⟩

/-- The last long in bounds, the first one out of bounds, an odd word in bounds under `MISALIGNED = fault`. -/
theorem witness_MemoryAccess :
    ((0xFFFC : Word).toNat + Size.L.bytes ≤ small.options.memSize ∧
      ¬ (small.options.misaligned = .fault ∧ Size.L ≠ .B ∧ (0xFFFC : Word).toNat % 2 = 1)) ∧
    strict.options.memSize < (0xFFFD : Word).toNat + Size.L.bytes ∧
    ((0xFFFB : Word).toNat + Size.L.bytes ≤ strict.options.memSize ∧ strict.options.misaligned = .fault ∧
      Size.L ≠ .B ∧ (0xFFFB : Word).toNat % 2 = 1) := by decide

theorem witness_BigEndian : small.options.memSize ≤ 2 ^ 32 ∧ ∃ t, memWrite 0xFFFC .L 0x11223344 small = .ok t :=
  ⟨by decide, _, rfl⟩

theorem witness_RegisterAccess : byteOnAddr (.addr 7) .W = false ∧ byteOnAddr (.data 7) .B = false ∧
    (∃ t, regWrite (.data 7) .B 0xFF small = .ok t) ∧ (∃ t, regWrite (.data 0) .W 0x8000 small = .ok t) ∧
    (∃ t, regWrite (.data 0) .L 0 small = .ok t) ∧ (∃ t, regWrite (.addr 7) .W 0x8000 small = .ok t) ∧
    (∃ t, regWrite (.addr 0) .L 0 small = .ok t) :=
  ⟨rfl, rfl, ⟨_, rfl⟩, ⟨_, rfl⟩, ⟨_, rfl⟩, ⟨_, rfl⟩, _, rfl⟩

/-- The operand `A0 = 0xFFFF` at sizes `W` and `B`, one byte over the end and the last byte; as source, as destination, as
destination of a move and of `Scc`. -/
theorem witness_OperandFaults :
    let s := withRegs data0 [(.addr 0, 0xFFFF)]
    let e := withRegs data0 [(.addr 0, 0x10000)]
    (resolve (at0 0) .W s = .ok (.mem 0xFFFF, s) ∧ readLoc (.mem 0xFFFF) .W s = .error (.raise .addressOutOfBounds) ∧
      (Instr.move .W (at0 0) (dn 0)).wellFormed = true ∧ (Instr.adda .W (at0 0) (an 1)).wellFormed = true ∧
      (Instr.mulsW (at0 0) (dn 0)).wellFormed = true ∧ (Instr.addq .W (imm 1) (at0 0)).wellFormed = true ∧
      (at0 0).isMemAlt = true) ∧
    (resolve (dn 1) .W s = .ok (.reg (.data 1), s) ∧ readLoc (.reg (.data 1)) .W s = .ok (5 : BitVec 16) ∧
      resolve (at0 0) .W s = .ok (.mem 0xFFFF, s) ∧
      writeLoc (.mem 0xFFFF) .W (5 : BitVec 16) s = .error (.raise .addressOutOfBounds) ∧
      (Instr.add .W (dn 1) (at0 0)).wellFormed = true ∧ (Instr.move .W (dn 1) (at0 0)).wellFormed = true) ∧
    (resolve (at0 0) .B e = .ok (.mem 0x10000, e) ∧
      readLoc (.mem 0x10000) .B e = .error (.raise .addressOutOfBounds) ∧
      (Instr.bitOnByte .set (imm 0) (at0 0)).wellFormed = true ∧
      writeLoc (.mem 0x10000) .B (0xFF : BitVec 8) e = .error (.raise .addressOutOfBounds) ∧
      (at0 0).isDataAlt = true) :=
  ⟨⟨rfl, rfl, by decide, by decide, by decide, by decide, by decide⟩, ⟨rfl, rfl, rfl, rfl, by decide, by decide⟩,
    rfl, rfl, by decide, rfl, by decide⟩

/-- Immediate to register, and memory to memory through one register. -/
theorem witness_MoveCopies :
    ((Instr.move .W (imm 7) (dn 0)).wellFormed = true ∧ Reads (imm 7) .W data0 (.imm 7) data0 7 ∧
      resolve (dn 0) .W data0 = .ok (.reg (.data 0), data0) ∧ (Loc.reg (.data 0)).writable .W data0) ∧
    ((Instr.move .W (post 0) (post 0)).wellFormed = true ∧ Reads (post 0) .W data0 (.mem 0x2000) stepped 0x8001 ∧
      resolve (post 0) .W stepped = .ok (.mem 0x2002, stepped.putReg (.addr 0) 0x2004 .L) ∧
      (Loc.mem 0x2002).writable .W (stepped.putReg (.addr 0) 0x2004 .L)) :=
  ⟨⟨by decide, reads_immediate, rfl, rfl⟩, by decide, reads_memory, rfl, rfl, rfl⟩

theorem witness_MoveqLoads : (-128 ≤ (0xFFFFFF80 : Word).toInt ∧ (0xFFFFFF80 : Word).toInt ≤ 127) ∧
    (-128 ≤ (127 : Word).toInt ∧ (127 : Word).toInt ≤ 127) := by decide

/-- A register and memory, and the least and the greatest quick constant. -/
theorem witness_AddAdds :
    Reads (dn 1) .W data0 (.reg (.data 1)) data0 5 ∧ Reads (post 0) .W data0 (.mem 0x2000) stepped 0x8001 ∧
    (Instr.add .W (dn 1) (post 0)).wellFormed = true ∧
    Reads (imm 8) .W data0 (.imm 8) data0 8 ∧ (Instr.addq .W (imm 8) (post 0)).wellFormed = true ∧
    Reads (imm 1) .W data0 (.imm 1) data0 1 ∧ (Instr.addq .W (imm 1) (post 0)).wellFormed = true :=
  ⟨reads_register, reads_memory, by decide, ⟨rfl, rfl⟩, by decide, ⟨rfl, rfl⟩, by decide⟩

theorem witness_SubSubtracts :
    Reads (dn 1) .W data0 (.reg (.data 1)) data0 5 ∧ Reads (pre 0) .W data0 (.mem 0x1FFE) lowered 0 ∧
    (Instr.sub .W (dn 1) (pre 0)).wellFormed = true ∧
    Reads (imm 8) .W data0 (.imm 8) data0 8 ∧ (Instr.subq .W (imm 8) (pre 0)).wellFormed = true ∧
    Reads (imm 1) .W data0 (.imm 1) data0 1 ∧ (Instr.subq .W (imm 1) (pre 0)).wellFormed = true :=
  ⟨reads_register, reads_lowered, by decide, ⟨rfl, rfl⟩, by decide, ⟨rfl, rfl⟩, by decide⟩

theorem witness_NegNegates : (Instr.neg .W (post 0)).wellFormed = true ∧
    Reads (post 0) .W data0 (.mem 0x2000) stepped 0x8001 := ⟨by decide, reads_memory⟩

theorem witness_AddressArithmetic : Size.W ≠ .B ∧ Reads (post 0) .W data0 (.mem 0x2000) stepped 0x8001 ∧
    (Instr.adda .W (post 0) (an 0)).wellFormed = true ∧ (Instr.suba .W (post 0) (an 0)).wellFormed = true :=
  ⟨by decide, reads_memory, by decide, by decide⟩

theorem witness_CmpCompares : (Instr.cmp .W (post 0) (dn 1)).wellFormed = true ∧
    Reads (post 0) .W data0 (.mem 0x2000) stepped 0x8001 ∧ (5 : BitVec 16) = (stepped.x (.data 1)).setWidth 16 :=
  ⟨by decide, reads_memory, by decide⟩

theorem witness_CompareConditions : (Instr.cmp .W (post 0) (dn 1)).wellFormed = true ∧
    Reads (post 0) .W data0 (.mem 0x2000) stepped 0x8001 ∧ (5 : BitVec 16) = (stepped.x (.data 1)).setWidth 16 ∧
    ∃ t, exec (Instr.cmp .W (post 0) (dn 1)) data0 = .next t := by
  obtain ⟨t, h, -⟩ := exec_of_gives (i := Instr.cmp .W (post 0) (dn 1)) (s := data0) (p := fun _ => true) (by decide)
  exact ⟨by decide, reads_memory, by decide, t, h⟩

theorem witness_TstTests : (Instr.tst .L (.absolute 0xFFFC)).wellFormed = true ∧
    Reads (.absolute 0xFFFC) .L data0 (.mem 0xFFFC) data0 0 := ⟨by decide, reads_last⟩

theorem witness_Multiplies : (post 0).isData = true ∧ Reads (post 0) .W data0 (.mem 0x2000) stepped 0x8001 :=
  ⟨by decide, reads_memory⟩

/-- Quotients -32768 and 32767, a zero divisor, and the quotients one beyond. -/
theorem witness_DivsDivides :
    ((imm 1).isData = true ∧ Reads (imm 1) .W data0 (.imm 1) data0 1 ∧ Reads (imm 0) .W data0 (.imm 0) data0 0) ∧
    (-32768 ≤ (0xFFFF8000 : Word).toInt.tdiv (1 : BitVec 16).toInt ∧
      (0xFFFF8000 : Word).toInt.tdiv (1 : BitVec 16).toInt ≤ 32767) ∧
    (-32768 ≤ (0x7FFF : Word).toInt.tdiv (1 : BitVec 16).toInt ∧
      (0x7FFF : Word).toInt.tdiv (1 : BitVec 16).toInt ≤ 32767) ∧
    ((0xFFFF7FFF : Word).toInt.tdiv (1 : BitVec 16).toInt < -32768) ∧
    (32767 < (0x8000 : Word).toInt.tdiv (1 : BitVec 16).toInt) ∧
    (withRegs data0 [(.data 0, 0x8000)]).x (.data 0) = 0x8000 :=
  ⟨⟨by decide, ⟨rfl, rfl⟩, rfl, rfl⟩, by simp, by simp, by simp, by simp, by decide⟩

theorem witness_DivuDivides :
    ((imm 1).isData = true ∧ Reads (imm 1) .W data0 (.imm 1) data0 1 ∧ Reads (imm 0) .W data0 (.imm 0) data0 0) ∧
    (0xFFFF : Word).toNat / (1 : BitVec 16).toNat ≤ 0xFFFF ∧ 0xFFFF < (0x10000 : Word).toNat / (1 : BitVec 16).toNat ∧
    (withRegs data0 [(.data 0, 0x10000)]).x (.data 0) = 0x10000 :=
  ⟨⟨by decide, ⟨rfl, rfl⟩, rfl, rfl⟩, by decide, by decide, by decide⟩

theorem witness_LogicCombines :
    Reads (dn 1) .W data0 (.reg (.data 1)) data0 5 ∧ Reads (post 0) .W data0 (.mem 0x2000) stepped 0x8001 ∧
    (Instr.and .W (dn 1) (post 0)).wellFormed = true ∧ (Instr.or .W (dn 1) (post 0)).wellFormed = true ∧
    (Instr.eor .W (dn 1) (post 0)).wellFormed = true :=
  ⟨reads_register, reads_memory, by decide, by decide, by decide⟩

theorem witness_NotInverts : (Instr.not .W (post 0)).wellFormed = true ∧
    Reads (post 0) .W data0 (.mem 0x2000) stepped 0x8001 ∧
    (0x7FFE : BitVec 16).toNat = 2 ^ Size.W.bits - 1 - (0x8001 : BitVec 16).toNat :=
  ⟨by decide, reads_memory, by decide⟩

/-- The least and the greatest immediate count, and the register counts 0 and 63. -/
theorem witness_ShiftRegister :
    (1 ≤ (1 : Word).toNat ∧ (1 : Word).toNat ≤ 8) ∧ (1 ≤ (8 : Word).toNat ∧ (8 : Word).toNat ≤ 8) ∧
    ((withRegs data0 [(.data 1, 64)]).x (.data 1)).toNat % 64 = 0 ∧
    ((withRegs data0 [(.data 1, 0xFFFFFFFF)]).x (.data 1)).toNat % 64 = 63 := by decide

theorem witness_ShiftMemory : (post 0).isMemAlt = true ∧ Reads (post 0) .W data0 (.mem 0x2000) stepped 0x8001 :=
  ⟨by decide, reads_memory⟩

/-- A zero count, the least other count, and one with the sign changed on the way. -/
theorem witness_ShiftFlags : ∃ c : Nat, 1 ≤ c ∧ ∃ k ≤ c, ((0x40 : BitVec 8) <<< k).msb ≠ (0x40 : BitVec 8).msb :=
  ⟨1, by decide, 1, by decide, by decide⟩

/-- Bit numbers 31 and 32 (bit 0) from an immediate and a register. -/
theorem witness_BitOnRegister : (imm 31 = .immediate 31 ∧ 31 = (31 : Word).toNat % 32) ∧
    (dn 1 = .register (.data 1) ∧ (32 : Word) = (withRegs data0 [(.data 1, 32)]).x (.data 1) ∧
      0 = (32 : Word).toNat % 32) := by decide

theorem witness_BitOnByte : (imm 7 = .immediate 7 ∧ 7 = (7 : Word).toNat % 8) ∧
    (dn 1 = .register (.data 1) ∧ (8 : Word) = (withRegs data0 [(.data 1, 8)]).x (.data 1) ∧ 0 = (8 : Word).toNat % 8) ∧
    (post 0).isMemAlt = true ∧ Reads (post 0) .B data0 (.mem 0x2000) (data0.putReg (.addr 0) 0x2001 .L) 0x80 :=
  ⟨by decide, by decide, by decide, reads_byte⟩

/-- `BSR`, `JSR` to a label and to a computed address; the stack pointer at the least good place, below it, and odd. -/
theorem witness_CallsPush :
    ((Instr.bsr (.address 8)).wellFormed = true ∧ (Instr.jsr (.address 8)).wellFormed = true ∧
      effAddr (.address 8) data0 = .ok 8 ∧ (Instr.jsr (at0 0)).wellFormed = true ∧ effAddr (at0 0) data0 = .ok 0x2000) ∧
    (withRegs data0 [(.addr 7, 4)]).accessible ((withRegs data0 [(.addr 7, 4)]).x .sp - 4) .L ∧
    (withRegs data0 [(.addr 7, 3)]).accessFault ((withRegs data0 [(.addr 7, 3)]).x .sp - 4) .L = some .addressOutOfBounds ∧
    (withRegs strict [(.addr 7, 5)]).accessFault ((withRegs strict [(.addr 7, 5)]).x .sp - 4) .L = some .misalignedAccess :=
  ⟨⟨by decide, by decide, rfl, by decide, rfl⟩, ⟨by decide, by decide⟩, by decide, by decide⟩

theorem witness_ReturnPops :
    (withRegs data0 [(.addr 7, 0xFFFC)]).accessible ((withRegs data0 [(.addr 7, 0xFFFC)]).x .sp) .L ∧
    (withRegs data0 [(.addr 7, 0xFFFD)]).accessFault ((withRegs data0 [(.addr 7, 0xFFFD)]).x .sp) .L
      = some .addressOutOfBounds ∧
    (withRegs strict [(.addr 7, 1)]).accessFault ((withRegs strict [(.addr 7, 1)]).x .sp) .L = some .misalignedAccess :=
  ⟨⟨by decide, by decide⟩, by decide, by decide⟩

theorem witness_CallThenReturn : (Instr.bsr (.address 8)).wellFormed = true ∧ (Instr.jsr (at0 0)).wellFormed = true ∧
    effAddr (at0 0) data0 = .ok 0x2000 ∧ data0.accessible (data0.x .sp - 4) .L :=
  ⟨by decide, by decide, rfl, by decide, by decide⟩

/-- A counter word 0 (it becomes -1) and 1, with the condition false, and the condition true. -/
theorem witness_DbccCounts :
    (0xFFFF : BitVec 16).toNat = ((data0.x (.data 0)).toNat % 2 ^ 16 + 0xFFFF) % 2 ^ 16 ∧
    (0 : BitVec 16).toNat = (((withRegs data0 [(.data 0, 0x10001)]).x (.data 0)).toNat % 2 ^ 16 + 0xFFFF) % 2 ^ 16 ∧
    Machine.cond .f data0.flags = false ∧ Machine.cond .t data0.flags = true := by decide

theorem witness_SccSets : (pre 7).isDataAlt = true ∧
    resolve (pre 7) .B data0 = .ok (.mem 0xFFFE, data0.putReg (.addr 7) 0xFFFE .L) ∧
    (Loc.mem 0xFFFE).writable .B (data0.putReg (.addr 7) 0xFFFE .L) := ⟨by decide, rfl, rfl, rfl⟩

theorem witness_LeaPea : (at0 0).isCtrl = true ∧ effAddr (at0 0) data0 = .ok 0x2000 ∧
    data0.accessible (data0.x .sp - 4) .L ∧
    (withRegs data0 [(.addr 7, 3)]).accessFault ((withRegs data0 [(.addr 7, 3)]).x .sp - 4) .L = some .addressOutOfBounds :=
  ⟨by decide, rfl, ⟨rfl, rfl⟩, by decide⟩

theorem witness_LinkUnlk : (6 : Fin 8) ≠ 7 ∧ data0.accessible (data0.x .sp - 4) .L ∧
    data0.accessible (data0.x (.addr 6)) .L ∧
    (withRegs data0 [(.addr 7, 3)]).accessFault ((withRegs data0 [(.addr 7, 3)]).x .sp - 4) .L = some .addressOutOfBounds ∧
    (withRegs strict [(.addr 6, 1)]).accessFault ((withRegs strict [(.addr 6, 1)]).x (.addr 6)) .L
      = some .misalignedAccess := ⟨by decide, ⟨rfl, rfl⟩, ⟨rfl, rfl⟩, by decide, by decide⟩

/-- `-(A0)` with two registers whose slots end below `0x2000`, and `(A0)` with none. -/
theorem witness_MovemStores :
    Size.W ≠ .B ∧ listedRegs 0x0201 = [.data 0, .addr 1] ∧ (Instr.movemStore .W 0x0201 (pre 0)).wellFormed = true ∧
    (0x1FFC : Word) = data0.x (.addr 0) - BitVec.ofNat 32 (Size.W.bytes * 2) ∧
    (∀ j < 2, data0.inBounds (0x1FFC + BitVec.ofNat 32 (Size.W.bytes * j)) 2 = true ∧
      data0.misalignedAt (0x1FFC + BitVec.ofNat 32 (Size.W.bytes * j)) .W = false) ∧
    (Instr.movemStore .W 0 (at0 0)).wellFormed = true ∧ effAddr (at0 0) data0 = .ok 0x2000 ∧ listedRegs 0 = [] ∧
    effAddr (.absolute 0xFFFE) data0 = .ok 0xFFFE ∧
    data0.accessFault (0xFFFE + BitVec.ofNat 32 (Size.W.bytes * 1)) .W ≠ none :=
  ⟨by decide, by decide, by decide, by decide, by decide, by decide, rfl, by decide, rfl, by decide⟩

theorem witness_MovemLoads :
    Size.L ≠ .B ∧ (Instr.movemLoad .L (post 0) 0x0201).wellFormed = true ∧ (0x2000 : Word) = data0.x (.addr 0) ∧
    (∀ j < 2, data0.inBounds (0x2000 + BitVec.ofNat 32 (Size.L.bytes * j)) 4 = true ∧
      data0.misalignedAt (0x2000 + BitVec.ofNat 32 (Size.L.bytes * j)) .L = false) ∧
    (Instr.movemLoad .L (at0 0) 0x0100).wellFormed = true ∧ effAddr (at0 0) data0 = .ok 0x2000 ∧
    effAddr (.absolute 0xFFFC) data0 = .ok 0xFFFC ∧
    data0.accessFault (0xFFFC + BitVec.ofNat 32 (Size.L.bytes * 1)) .L ≠ none :=
  ⟨by decide, by decide, by decide, by decide, by decide, rfl, rfl, by decide⟩

/-- Every task from 0 to 10, no string at an address above memory, the longest string in memory and one byte beyond. -/
theorem witness_TrapTasks :
    (∀ k ∈ [0, 1, 2, 3, 4, 5, 6, 7, 8, 9, 10], ((withRegs data0 [(.data 0, BitVec.ofNat 32 k)]).x (.data 0)).toNat = k) ∧
    (0 = (0x10000 : Word).toNat % 2 ^ 16 ∧ data0.options.memSize < (0x10001 : Word).toNat) ∧
    (0xFF00 : Word).toNat + (0x100 : Word).toNat % 2 ^ 16 ≤ data0.options.memSize ∧
    (0 < (0x101 : Word).toNat % 2 ^ 16 ∧ data0.options.memSize < (0xFF00 : Word).toNat + (0x101 : Word).toNat % 2 ^ 16) :=
  by decide

/-- A string of 81 bytes, cut to the 80 that still fit, and an empty one at an address above memory. -/
theorem witness_AnswerAccepted :
    let s := { withRegs data0 [(.addr 1, 0xFFB0)] with status := .interrupt, curInterrupt := some .readKeyboardString }
    s.status = .interrupt ∧ s.curInterrupt = some .readKeyboardString ∧
    tagMatches (.readKeyboardString (List.replicate 81 0x61)) .readKeyboardString = true ∧
    s.inBounds (s.x (.addr 1)) ((List.replicate 81 (0x61 : Byte)).take 80).length = true ∧
    s.inBounds 0xFFFFFFFF (([] : List Byte).take 80).length = true := by decide

theorem witness_AnswerTurnedAway :
    let s := { withRegs data0 [(.addr 1, 0xFFB1)] with status := .interrupt, curInterrupt := some .readKeyboardString }
    tagMatches (.readChar 0) .readKeyboardString = false ∧ data0.status ≠ .interrupt ∧ s.status = .interrupt ∧
    s.curInterrupt = some .readKeyboardString ∧
    s.inBounds (s.x (.addr 1)) ((List.replicate 80 (0x61 : Byte)).take 80).length = false := by decide

theorem witness_HostView : byteOnAddr (.addr 0) .W = false ∧ byteOnAddr (.data 0) .B = false := by decide

/-- The run from a state whose step ends in a state. -/
theorem runWithLimit_one {s t : State} (hu : s.undone = false) (hs : s.status = .running) (h : step s = .next t) :
    runWithLimit 1 s = .next t := by
  simp [runWithLimit, callRun, runLoop, hu, hs, h]

/-- A terminal status and a pending interrupt; a run that ends in one step; a run that meets a breakpoint after one step, and
none before; a run with its host that ends, from a state of the invariant. -/
theorem witness_RunVariants :
    (State.reset.undone = false ∧ State.reset.status = .terminated) ∧
    (let s : State := { data0 with status := .interrupt, curInterrupt := some .readChar };
      s.undone = false ∧ s.status = .interrupt) ∧
    (∃ t, runWithLimit 1 (withProgram data0 [.bra (.address 4)]) = .next t ∧ t.status ≠ .running) ∧
    (let s := withProgram data0 [.bra (.address 4), .rts];
      (∀ j < 1, ∀ u, runWithLimit j s = .next u → u.pc ∉ [(4 : Word)]) ∧
      ∃ t, runWithLimit 1 s = .next t ∧ t.status = .running ∧ t.pc ∈ [(4 : Word)]) ∧
    Machine.Inv stores ∧ ∃ r, hostRun 9 stores = .next r ∧ hasTerminated r.state = true := by
  refine ⟨by decide, by decide, ?_, ⟨?_, ?_⟩, stores_inv, ?_⟩
  · obtain ⟨t, h, hp⟩ := step_of_ends (s := withProgram data0 [.bra (.address 4)])
      (p := fun t => t.status = .terminated) (by decide)
    have hp' : t.status = .terminated := by simpa using hp
    exact ⟨t, runWithLimit_one rfl rfl h, by rw [hp']; decide⟩
  · intro j hj u hu
    obtain rfl : j = 0 := by omega
    have hu' : (Host.Outcome.next (withProgram data0 [.bra (.address 4), .rts]) : Result) = .next u := hu
    cases hu'
    decide
  · obtain ⟨t, h, hp⟩ := step_of_ends (s := withProgram data0 [.bra (.address 4), .rts])
      (p := fun t => t.status = .running ∧ t.pc = 4) (by decide)
    have hp' : t.status = .running ∧ t.pc = 4 := by simpa using hp
    exact ⟨t, runWithLimit_one rfl rfl h, hp'.1, by simp [hp'.2]⟩
  · have h : (match hostRun 9 stores with
        | .next r => hasTerminated r.state
        | .fault _ => false
        | .refused _ => false) = true := by decide
    split at h
    · exact ⟨_, ‹_›, h⟩
    · cases h
    · cases h

end Sys2Proof.Tests
end

section
/-! SUPPORT. What a step that faults leaves (R9, R312, R311). -/

namespace Sys2Proof.Machine

theorem bodyOf_of_trap {i : Instr} {v : Operand} (h : i.shape = .trap v) : bodyOf i = trapBody v := by
  cases i with
  | trap w => cases h; rfl
  | _ => cases h

/-- Pseudocode that runs to its end never ends in the faulted status: only `takeFault` sets it. -/
theorem bodyOf_not_faulted {i : Instr} {s t : State} (h : bodyOf i s = .ok t) (hs : s.status = .running) :
    t.status ≠ .terminatedWithException := by
  by_cases hi : ∃ v, i.shape = .trap v
  · obtain ⟨v, hv⟩ := hi
    rw [bodyOf_of_trap hv] at h
    rcases trapBody_cases h with ⟨r, -, rfl⟩ | rfl <;> simp
  · obtain ⟨hst, -⟩ := writes_control (bodyOf_writes h (not_exists.1 hi))
    simp [hst, hs]

/-- The end check neither enters nor leaves the faulted status (R133). -/
theorem endCheck_faulted_iff {s : State} :
    (endCheck s).status = .terminatedWithException ↔ s.status = .terminatedWithException := by
  by_cases h : s.status = .running ∧ s.pc.toNat = instrEnd s.program
  · rw [endCheck_of_end h.1 h.2]; simp [h.1]
  · simp [endCheck, h]

/-- A step from status Running that ends faulted took a fault from the state before; at most the history entry of the
line is closed over it (R312). -/
theorem step_faulted {s t : State} (hs : s.status = .running) (h : step s = .next t)
    (ht : t.status = .terminatedWithException) :
    ∃ f, t = takeFault f s ∨ ∃ line : InstructionLine, t = closeEntry s.pc line.lineIndex (takeFault f s) := by
  obtain ⟨-, ⟨he, -⟩ | ⟨he, -⟩ | ⟨he, -⟩ | ⟨r, rest, he, -⟩ | ⟨-, -, rfl⟩ | ⟨line, -, -, -, rfl⟩ |
    ⟨line, i, u, -, -, -, hx, rfl⟩⟩ := step_cases h
  iterate 4 exact absurd (hs.symm.trans he) nofun
  · exact ⟨_, .inl rfl⟩
  · exact ⟨_, .inr ⟨line, rfl⟩⟩
  · rcases exec_next hx with hb | ⟨f, -, rfl⟩
    · have hu : u.status = .terminatedWithException := by simpa using endCheck_faulted_iff.1 ht
      exact absurd hu (bodyOf_not_faulted hb hs)
    · exact ⟨f, .inr ⟨line, endCheck_of_not_running nofun⟩⟩

/-- The step call reports the fault that ended the step (R311). -/
theorem stepReply_of_faulted {s t : State} {f : Fault} (hs : s.status = .running) (h : step s = .next t)
    (ht : t.status = .terminatedWithException) (hr : t.reason = some f) : stepReply s = some (.raised f) := by
  obtain ⟨hu, -⟩ := step_cases h
  simp only [step, hostStep, hu, Bool.false_eq_true, if_false, hs, engineStep] at h
  cases hf : fetch s with
  | none =>
    simp only [hf, Host.Outcome.next.injEq] at h
    subst h
    simpa [stepReply, hs, hf] using hr
  | some line =>
    simp only [hf] at h
    simp [stepReply, hs, hf, h, ht, hr]

/-- Settles O13: such a step is `takeFault` of the state before, up to the closed history entry. -/
theorem faultRollsBack : Obligations.FaultRollsBack := by
  intro s t hs h ht
  obtain ⟨f, rfl | ⟨line, rfl⟩⟩ := step_faulted hs h ht
  all_goals
    have hreply := stepReply_of_faulted hs h ht rfl
    simp [hreply]

end Sys2Proof.Machine
end

section
/-! SUPPORT. The fault an operand access ends an instruction in (R62, R63, R146 to R148). -/

namespace Sys2Proof.Machine

/-! ## A stop in a sequence -/

theorem bind_of_ok {α β : Type} {x : Res α} {a : α} (h : x = .ok a) (k : α → Res β) : x >>= k = k a := by
  subst h; rfl

theorem bind_of_error {α β : Type} {x : Res α} {e : Stop} (h : x = .error e) (k : α → Res β) : x >>= k = .error e := by
  subst h; rfl

/-! ## Operand work that stops -/

section
variable {op : Operand} {sz : Size} {s u : State} {l : Loc} {f : Fault} (hl : resolve op sz s = .ok (l, u))
include hl

theorem readSource_raises (hr : readLoc l sz u = .error (.raise f)) : readSource op sz s = .error (.raise f) :=
  (bind_of_ok hl _).trans (bind_of_error hr _)

theorem modifyDest_raises (hr : readLoc l sz u = .error (.raise f))
    (g : BitVec sz.bits → Flags → Computed sz.bits) : modifyDest op sz g s = .error (.raise f) :=
  (bind_of_ok hl _).trans (bind_of_error hr _)

theorem writeDest_raises {v : BitVec sz.bits} (hw : writeLoc l sz v u = .error (.raise f)) :
    writeDest op sz v s = .error (.raise f) :=
  (bind_of_ok hl _).trans hw

end

/-- Whether a write faults does not depend on the value written. -/
theorem writeLoc_raises_any {l : Loc} {sz : Size} {v : BitVec sz.bits} {s : State} {f : Fault}
    (h : writeLoc l sz v s = .error (.raise f)) (v' : BitVec sz.bits) : writeLoc l sz v' s = .error (.raise f) := by
  cases l with
  | imm w => cases h
  | reg r =>
    simp only [writeLoc, regWrite] at h ⊢
    split at h
    · rw [if_pos ‹_›, h]
    · cases h
  | mem addr =>
    simp only [writeLoc, memWrite] at h ⊢
    cases hc : checkAccess addr sz s with
    | ok a => simp only [hc] at h; cases h
    | error e => simp only [hc] at h; exact h

/-! ## The instruction takes the fault its pseudocode raises -/

theorem exec_takesFault {i : Instr} {sh : Shape} {body : State → Res State} {s : State} {f : Fault}
    (he : exec i s = runForm sh body s) (hb : body s = .error (.raise f)) (hw : i.wellFormed = true) :
    exec i s = .next (takeFault f s) := by
  rw [he]
  rcases runForm_cases sh body s with ⟨-, t, ht, -⟩ | ⟨-, g, hg, hx⟩ | ⟨r, hx, -⟩
  · cases hb.symm.trans ht
  · cases hb.symm.trans hg; exact hx
  · rcases admitted_exec hw s with ⟨t, -, ht⟩ | ⟨g, -, hg⟩
    · cases hx.symm.trans (he.symm.trans ht)
    · cases hx.symm.trans (he.symm.trans hg)

/-! ## What the admitted forms say of the other operand -/

theorem wellFormed_addq (sz : Size) (src dst : Operand) :
    (Instr.addq sz src dst).wellFormed = (Shape.quick sz src dst).admitted := by cases sz <;> rfl

theorem wellFormed_subq (sz : Size) (src dst : Operand) :
    (Instr.subq sz src dst).wellFormed = (Shape.quick sz src dst).admitted := by cases sz <;> rfl

theorem wellFormed_bitOnByte (op : BitOp) (bitnum dst : Operand) :
    (Instr.bitOnByte op bitnum dst).wellFormed = (Shape.bit .B bitnum dst).admitted := by cases op <;> rfl

/-- The constant of ADDQ and SUBQ reads as itself and steps nothing. -/
theorem readSource_of_quick {sz : Size} {src dst : Operand} (h : (Shape.quick sz src dst).admitted = true) (s : State) :
    ∃ v, readSource src sz s = .ok (v, s) := by
  obtain ⟨v, rfl, -⟩ := isImmIn_iff.1 (Bool.and_eq_true_iff.1 h).1
  exact ⟨_, rfl⟩

/-- The bit number of an admitted bit instruction can be read. -/
theorem numberOf_of_bit {sz : Size} {bitnum dst : Operand} (h : (Shape.bit sz bitnum dst).admitted = true) (s : State) :
    ∃ n, numberOf bitnum s = .ok n := by
  rcases Bool.or_eq_true_iff.1 (Bool.and_eq_true_iff.1 h).1 with h | h
  · obtain ⟨v, rfl⟩ := isImm_iff.1 h; exact ⟨v, rfl⟩
  · obtain ⟨n, rfl⟩ := isDn_iff.1 h; exact ⟨_, rfl⟩

/-! ## The clauses -/

section
variable {sz : Size} {x : Operand} {s u : State} {l : Loc} {f : Fault} (hl : resolve x sz s = .ok (l, u))
  (hr : readLoc l sz u = .error (.raise f))
include hl hr

/-- An operand that cannot be read, where it is the source or the destination of a read-modify-write. -/
theorem unreadable_operand (y : Operand) :
    ∀ i ∈ [Instr.move sz x y, Instr.add sz x y, Instr.sub sz x y, Instr.cmp sz x y, Instr.and sz x y, Instr.or sz x y,
      Instr.tst sz x, Instr.neg sz x, Instr.not sz x, Instr.addq sz y x, Instr.subq sz y x],
      i.wellFormed = true → exec i s = .next (takeFault f s) := by
  have hsrc := readSource_raises hl hr
  have hmod := modifyDest_raises hl hr
  have hquick (g) (h : (Shape.quick sz y x).admitted = true) : arithBody sz g y x s = .error (.raise f) := by
    obtain ⟨v, hv⟩ := readSource_of_quick h s
    exact (bind_of_ok hv _).trans (bind_of_error (hmod _) _)
  simp only [List.forall_mem_cons, List.not_mem_nil, false_implies, implies_true, and_true]
  refine ⟨exec_takesFault (exec_move ..) ?_, exec_takesFault (exec_add ..) ?_, exec_takesFault (exec_sub ..) ?_,
    exec_takesFault (exec_cmp ..) ?_, exec_takesFault (exec_and ..) ?_, exec_takesFault (exec_or ..) ?_,
    exec_takesFault (exec_tst ..) ?_,
    exec_takesFault (exec_neg ..) (bind_of_error (hmod _) _), exec_takesFault (exec_not ..) (bind_of_error (hmod _) _),
    fun h => exec_takesFault (exec_addq ..) (hquick _ (wellFormed_addq sz y x ▸ h)) h,
    fun h => exec_takesFault (exec_subq ..) (hquick _ (wellFormed_subq sz y x ▸ h)) h⟩
  all_goals exact bind_of_error hsrc _

theorem unreadable_source_toAddr (y : Operand) (hsz : sz ≠ .B) :
    ∀ i ∈ [Instr.adda sz x y, Instr.suba sz x y], i.wellFormed = true → exec i s = .next (takeFault f s) := by
  have hsrc := readSource_raises hl hr
  simp only [List.forall_mem_cons, List.not_mem_nil, false_implies, implies_true, and_true]
  exact ⟨exec_takesFault (exec_adda hsz ..) (bind_of_error hsrc _),
    exec_takesFault (exec_suba hsz ..) (bind_of_error hsrc _)⟩

end

section
variable {x : Operand} {s u : State} {l : Loc} {f : Fault}

theorem unreadable_source_mulDiv (hl : resolve x .W s = .ok (l, u)) (hr : readLoc l .W u = .error (.raise f))
    (y : Operand) :
    ∀ i ∈ [Instr.mulsW x y, .muluW x y, .divsW x y, .divuW x y], i.wellFormed = true →
      exec i s = .next (takeFault f s) := by
  have hbody (g) : mulDivBody g x y s = .error (.raise f) := bind_of_error (readSource_raises hl hr) _
  simp only [List.forall_mem_cons, List.not_mem_nil, false_implies, implies_true, and_true]
  exact ⟨exec_takesFault rfl (hbody mulsResult), exec_takesFault rfl (hbody muluResult),
    exec_takesFault rfl (hbody divsResult), exec_takesFault rfl (hbody divuResult)⟩

theorem unreadable_shifted (hl : resolve x .W s = .ok (l, u)) (hr : readLoc l .W u = .error (.raise f)) (op : ShiftOp)
    (hx : x.isMemAlt = true) : exec (Instr.shifted op .W (.memory x)) s = .next (takeFault f s) := by
  rw [exec_shifted]
  exact runForm_raise (by simp [shapeRuns, Shape.admitted, hx]) (bind_of_error (modifyDest_raises hl hr _) _)

theorem unreadable_bitOnByte (hl : resolve x .B s = .ok (l, u)) (hr : readLoc l .B u = .error (.raise f)) (op : BitOp)
    (y : Operand) (h : (Instr.bitOnByte op y x).wellFormed = true) :
    exec (Instr.bitOnByte op y x) s = .next (takeFault f s) := by
  obtain ⟨n, hn⟩ := numberOf_of_bit (wellFormed_bitOnByte op y x ▸ h) s
  exact exec_takesFault (exec_bitOnByte ..) ((bind_of_ok hn _).trans ((bind_of_ok hl _).trans (bind_of_error hr _))) h

theorem unwritable_setOn {v : BitVec 8} (hl : resolve x .B s = .ok (l, u))
    (hw : writeLoc l .B v u = .error (.raise f)) (k : Cond) (hx : x.isDataAlt = true) :
    exec (Instr.setOn k x) s = .next (takeFault f s) := by
  rw [exec_setOn]
  exact runForm_raise (by simp [shapeRuns, Shape.admitted, hx])
    (bind_of_error (writeDest_raises hl (writeLoc_raises_any hw _)) _)

end

section
variable {sz : Size} {x y : Operand} {s u w : State} {l : Loc} {f : Fault} {v : BitVec sz.bits}
  (hsrc : readSource x sz s = .ok (v, u)) (hl : resolve y sz u = .ok (l, w))
include hsrc hl

/-- A destination that cannot be read, after a source that was. -/
theorem unreadable_dest (hr : readLoc l sz w = .error (.raise f)) :
    ∀ i ∈ [Instr.add sz x y, Instr.sub sz x y, Instr.and sz x y, Instr.or sz x y, Instr.eor sz x y],
      i.wellFormed = true → exec i s = .next (takeFault f s) := by
  have hmod := modifyDest_raises hl hr
  simp only [List.forall_mem_cons, List.not_mem_nil, false_implies, implies_true, and_true]
  refine ⟨exec_takesFault (exec_add ..) ?_, exec_takesFault (exec_sub ..) ?_, exec_takesFault (exec_and ..) ?_,
    exec_takesFault (exec_or ..) ?_, exec_takesFault (exec_eor ..) ?_⟩
  all_goals exact (bind_of_ok hsrc _).trans (bind_of_error (hmod _) _)

theorem unwritable_move (hw : writeLoc l sz v w = .error (.raise f)) :
    (Instr.move sz x y).wellFormed = true → exec (Instr.move sz x y) s = .next (takeFault f s) :=
  exec_takesFault (exec_move ..) ((bind_of_ok hsrc _).trans (bind_of_error (writeDest_raises hl hw) _))

end

/-- Settles O24: the pseudocode of each family stops at the first access that faults. -/
theorem operandFaults : Obligations.OperandFaults := by
  intro sz x y s u w lx ly f hl
  refine ⟨fun hr => ⟨unreadable_operand hl hr y, unreadable_source_toAddr hl hr y, ?mulDiv, ?shift, ?bit⟩,
    fun v hv hd => ?dest, ?setOn⟩
  case mulDiv => rintro rfl; exact unreadable_source_mulDiv hl hr y
  case shift => rintro rfl; exact unreadable_shifted hl hr
  case bit => rintro rfl op; exact unreadable_bitOnByte hl hr op y
  case dest =>
    have hsrc := readSource_of_reads ⟨hl, hv⟩
    exact ⟨unreadable_dest hsrc hd, unwritable_move hsrc hd⟩
  case setOn => rintro v hw rfl; exact unwritable_setOn hl hw

end Sys2Proof.Machine
end

section
/-! SUPPORT. The invariant of the engine through a step and a construction (R24, R31 to R34, R133, R301, R328, R360). -/

namespace Sys2Proof.Machine

/-- What holds of the engine inside a step and inside a construction, before the history entry is closed and the end check
runs: `Inv` without its two claims about the end of the program and with the entry still open. -/
structure MidStep (s : State) : Prop where
  memCanonical : s.mem.wf = true
  memInside : ∀ cell ∈ s.mem, cell.1 < s.options.memSize
  sizeLegal : 2 ≤ s.options.memSize ∧ s.options.memSize ≤ 2 ^ 32
  tableFits : instrEnd s.program ≤ 2 ^ 32
  slotFilled : s.status = .interrupt ↔ s.curInterrupt.isSome = true
  slotShort : ∀ r, s.curInterrupt = some r → r.byteCount ≤ 65535
  reasonKept : s.status = .terminatedWithException ↔ s.reason.isSome = true
  notBottom : s.reachedBottom = false
  ringBounded : s.options.keepHistory = true → s.history.length ≤ s.options.historySize
  ringOff : s.options.keepHistory = false → s.history = []

/-! ## Into and out of a step -/

/-- The invariant holds inside a step that starts in a status that is not Terminated. -/
theorem inv_midStep {s : State} (h : Inv s) (hs : s.status ≠ .terminated) : MidStep s where
  memCanonical := h.memCanonical
  memInside := h.memInside
  sizeLegal := h.sizeLegal
  tableFits := h.tableFits
  slotFilled := h.slotFilled
  slotShort := h.slotShort
  reasonKept := h.reasonKept
  notBottom := Bool.eq_false_iff.2 fun hb => hs (h.bottomAtEnd hb).1
  ringBounded := h.ringBounded
  ringOff := h.ringOff

/-- The end check restores the claims about the end of the program (R133). -/
theorem midStep_endCheck {s : State} (h : MidStep s) (ho : s.openEntry = []) : Inv (endCheck s) := by
  obtain ⟨hwf, hin, hsize, hfits, hslot, hshort, hreason, hbot, hring, hoff⟩ := h
  by_cases he : s.status = .running ∧ s.pc.toNat = instrEnd s.program
  · obtain ⟨hs, hpc⟩ := he
    have hnone : s.curInterrupt.isSome = false := by simpa [hs] using hslot
    have hnoreason : s.reason.isSome = false := by simpa [hs] using hreason
    rw [endCheck_of_end hs hpc]
    exact ⟨hwf, hin, hsize, hfits, by simp [hnone], hshort, by simp [hnoreason], fun _ => ⟨rfl, hpc⟩, nofun, ho, hring,
      hoff⟩
  · have hid : endCheck s = s := by simp [endCheck, he]
    rw [hid]
    exact ⟨hwf, hin, hsize, hfits, hslot, hshort, hreason, fun hb => by simp [hbot] at hb, fun hs hpc => he ⟨hs, hpc⟩, ho,
      hring, hoff⟩

/-! ## Inside a step -/

theorem midStep_writes {s t : State} (hw : Writes s t) (h : MidStep s) : MidStep t := by
  obtain ⟨hst, hre, hbo, hcu, hhi, -, -, hpr, hop⟩ := writes_control hw
  obtain ⟨hwf, hin⟩ := writes_memory hw h.memCanonical h.memInside
  exact ⟨hwf, hop ▸ hin, hop ▸ h.sizeLegal, hpr ▸ h.tableFits, hst ▸ hcu ▸ h.slotFilled, hcu ▸ h.slotShort,
    hst ▸ hre ▸ h.reasonKept, hbo ▸ h.notBottom, hop ▸ hhi ▸ h.ringBounded, hop ▸ hhi ▸ h.ringOff⟩

theorem midStep_takeFault {s : State} (h : MidStep s) (f : Fault) : MidStep (takeFault f s) :=
  { h with slotFilled := by simp, slotShort := nofun, reasonKept := by simp }

/-- A TRAP fills the slot with a short record, or it terminates with the slot still empty (R290, R299, R301). -/
theorem midStep_trapBody {v : Operand} {s t : State} (ht : trapBody v s = .ok t) (h : MidStep s)
    (hs : s.status = .running) : MidStep t := by
  have hnone : s.curInterrupt.isSome = false := by simpa [hs] using h.slotFilled
  have hnoreason : s.reason.isSome = false := by simpa [hs] using h.reasonKept
  rcases trapBody_cases ht with ⟨r, hr, rfl⟩ | rfl
  · refine { h with slotFilled := by simp, slotShort := ?_, reasonKept := by simp [hnoreason] }
    simpa using hr
  · exact { h with slotFilled := by simp [hnone], reasonKept := by simp [hnoreason] }

theorem midStep_exec {i : Instr} {s u : State} (hx : exec i s = .next u) (h : MidStep s) (hs : s.status = .running) :
    MidStep u := by
  rcases exec_next hx with hb | ⟨f, -, rfl⟩
  · by_cases hi : ∃ v, i.shape = .trap v
    · obtain ⟨v, hv⟩ := hi
      exact midStep_trapBody (bodyOf_of_trap hv ▸ hb) h hs
    · exact midStep_writes (bodyOf_writes hb (not_exists.1 hi)) h
  · exact midStep_takeFault h f

/-- The ring stays bounded when the entry is closed, and empty where no history is kept (R328). -/
theorem midStep_closeEntry {s : State} (h : MidStep s) (p : Word) (l : Nat) : MidStep (closeEntry p l s) := by
  refine { h with ringBounded := fun hk => ?_, ringOff := fun hk => ?_ }
  · have hk : s.options.keepHistory = true := hk
    simp only [closeEntry, if_pos hk, List.length_take]
    exact Nat.min_le_left ..
  · have hk : s.options.keepHistory = false := hk
    simp [closeEntry, hk, h.ringOff hk]

theorem appendToLast_length (ms : List Mutation) (es : List ExecutionStep) : (appendToLast ms es).length = es.length := by
  cases es <;> rfl

theorem appendToLast_eq_nil {ms : List Mutation} {es : List ExecutionStep} (h : es = []) : appendToLast ms es = [] := by
  rw [h, appendToLast]

/-- An accepted answer empties the slot and runs the end check (R302). -/
theorem inv_finishAnswer {s t : State} (hw : Writes s t) (h : MidStep s) (hs : s.status = .interrupt)
    (ho : s.openEntry = []) : Inv (finishAnswer s t) := by
  have ht := midStep_writes hw h
  have hnoreason : t.reason.isSome = false := by
    obtain ⟨hst, -⟩ := writes_control hw
    simpa [hst, hs] using ht.reasonKept
  refine midStep_endCheck
    { ht with
      slotFilled := by simp
      slotShort := nofun
      reasonKept := by simp [hnoreason]
      ringBounded := fun hk => (appendToLast_length _ _).trans_le (ht.ringBounded hk)
      ringOff := fun hk => appendToLast_eq_nil (ht.ringOff hk) } ho

/-! ## The step -/

theorem inv_takeFault {s : State} (h : Inv s) (hs : s.status ≠ .terminated) (f : Fault) : Inv (takeFault f s) := by
  have := midStep_endCheck (midStep_takeFault (inv_midStep h hs) f) h.entryClosed
  rwa [endCheck_of_not_running (by simp)] at this

/-- The answers the host still has to give are no concern of the invariant (log 11). -/
theorem inv_answers {s : State} (h : Inv s) (rest : List InterruptResult) : Inv { s with answers := rest } := { h with }

theorem inv_answerInterrupt {s : State} (h : Inv s) (r : InterruptResult) : Inv (answerInterrupt r s).1 := by
  rcases answerInterrupt_cases r s with ⟨_, t, hs, -, -, -, hw, he⟩ | ⟨_, hs, -, -, -, he⟩ | ⟨_, he⟩ <;> rw [he]
  · exact inv_finishAnswer hw (inv_midStep h (by simp [hs])) hs h.entryClosed
  · exact inv_takeFault h (by simp [hs]) _
  · exact h

/-- A step from status Running that finds an entry ends, fault or not, in the closed entry and the end check (R130). -/
theorem step_of_line {s t : State} {line : InstructionLine} (hs : s.status = .running) (hf : fetch s = some line)
    (h : step s = .next t) :
    ∃ u, t = endCheck (closeEntry s.pc line.lineIndex u) ∧
      (u = takeFault .illegalInstruction s ∨ ∃ i, decode line.entry = .ok i ∧ exec i s = .next u) := by
  obtain ⟨-, ⟨he, -⟩ | ⟨he, -⟩ | ⟨he, -⟩ | ⟨_, _, he, -⟩ | ⟨-, he, -⟩ | ⟨line', -, hf', -, rfl⟩ |
    ⟨line', i, u, -, hf', hd, hx, rfl⟩⟩ := step_cases h
  iterate 4 exact absurd (hs.symm.trans he) nofun
  · cases hf.symm.trans he
  · cases hf.symm.trans hf'
    exact ⟨_, (endCheck_of_not_running (by simp)).symm, .inl rfl⟩
  · cases hf.symm.trans hf'
    exact ⟨u, rfl, .inr ⟨i, hd, hx⟩⟩

/-- Settles O9: `MidStep` holds from the start of a step until its end check, which restores `Inv`. -/
theorem stepKeepsInv : Obligations.StepKeepsInv := by
  intro s t hinv h
  obtain ⟨-, ⟨-, rfl⟩ | ⟨-, rfl⟩ | ⟨hs, -, rfl⟩ | ⟨r, rest, -, -, rfl⟩ | ⟨hs, -, rfl⟩ | ⟨line, hs, hf, -, -⟩ |
    ⟨line, -, -, hs, hf, -, -, -⟩⟩ := step_cases h
  · exact hinv
  · exact hinv
  · exact inv_takeFault hinv (by simp [hs]) _
  · exact inv_answerInterrupt (inv_answers hinv rest) r
  · exact inv_takeFault hinv (by simp [hs]) _
  all_goals
    have hmid := inv_midStep hinv (by simp [hs])
    obtain ⟨u, rfl, rfl | ⟨i, -, hx⟩⟩ := step_of_line hs hf h
    · exact midStep_endCheck (midStep_closeEntry (midStep_takeFault hmid _) ..) rfl
    · exact midStep_endCheck (midStep_closeEntry (midStep_exec hx hmid hs) ..) rfl

end Sys2Proof.Machine
end

section
/-! SUPPORT. Construction and the reset state (R37, R70, R360). -/

namespace Sys2Proof.Machine

/-! ## The loaded memory -/

/-- Of the cells loaded for an address the last one counts; an address none is loaded for is as before (R70). -/
theorem readByte_loadCells (cells : List Host.Cell) (m : Memory) (b : Nat) :
    (loadCells cells m).readByte b = (cells.reverse.lookup b).getD (m.readByte b) := by
  induction cells using List.reverseRecOn with
  | nil => rfl
  | append_singleton cells c ih =>
    have hstep : loadCells (cells ++ [c]) m = (loadCells cells m).writeByte c.1 c.2 := by simp [loadCells]
    rw [hstep, readByte_writeByte, ih, List.reverse_append, List.reverse_singleton, List.singleton_append, List.lookup_cons]
    by_cases hb : b = c.1
    · simp [hb]
    · simp [hb, beq_eq_false_iff_ne.2 hb]

theorem spInit_toNat (n : Nat) : (spInit n).toNat = (n - n % 2) % 2 ^ 32 := by
  have hn : n / 2 * 2 = n - n % 2 := by omega
  rw [spInit, BitVec.toNat_ofNat, hn]

theorem instrEnd_eq_zero_iff {p : Program} : instrEnd p = 0 ↔ p.lines = [] := by
  simp [instrEnd]

/-! ## Construction -/

/-- The state a construction hands to the end check (R360). -/
def bootLoaded (p : CompiledProgram) (fill : List Host.Cell) (o : Options) : State :=
  { State.reset with
    a := (Vector.replicate 8 0).set 7 (spInit o.memSize)
    status := .running
    reachedBottom := false
    mem := loadCells p.image (loadCells fill [])
    program := p.program
    options := o }

theorem boot_of_admits {p : CompiledProgram} {fill : List Host.Cell} {o : Options} (h : bootAdmits p fill o = true) :
    boot p fill o = some (endCheck (bootLoaded p fill o)) := if_pos h

theorem admits_of_boot {p : CompiledProgram} {fill : List Host.Cell} {o : Options} {s : State}
    (h : boot p fill o = some s) : bootAdmits p fill o = true ∧ s = endCheck (bootLoaded p fill o) := by
  unfold boot at h
  split at h
  · next ha => cases h; exact ⟨ha, rfl⟩
  · cases h

theorem bootLoaded_midStep {p : CompiledProgram} {fill : List Host.Cell} {o : Options}
    (h : bootAdmits p fill o = true) : MidStep (bootLoaded p fill o) := by
  simp only [bootAdmits, Bool.and_eq_true, decide_eq_true_eq, List.all_eq_true] at h
  obtain ⟨⟨⟨⟨hlow, hhigh⟩, himage⟩, hfill⟩, hfits⟩ := h
  exact {
    memCanonical := loadCells_wf (loadCells_wf rfl)
    memInside := loadCells_inside himage (loadCells_inside hfill nofun)
    sizeLegal := ⟨hlow, hhigh⟩
    tableFits := hfits
    slotFilled := by simp [bootLoaded, State.reset]
    slotShort := nofun
    reasonKept := by simp [bootLoaded, State.reset]
    notBottom := rfl
    ringBounded := fun _ => Nat.zero_le _
    ringOff := fun _ => rfl }

theorem bootLoaded_x_data (p : CompiledProgram) (fill : List Host.Cell) (o : Options) (n : Fin 8) :
    (bootLoaded p fill o).x (.data n) = 0 := by
  simp [State.x, bootLoaded, State.reset]

theorem bootLoaded_x_addr (p : CompiledProgram) (fill : List Host.Cell) (o : Options) (n : Fin 8) :
    (bootLoaded p fill o).x (.addr n) = if n = 7 then spInit o.memSize else 0 := by
  by_cases hn : n = 7
  · subst hn; simp [State.x, bootLoaded]
  · have : (7 : Nat) ≠ n.val := fun h => hn (Fin.ext h.symm)
    simp [State.x, bootLoaded, hn, Vector.getElem_set_ne, this]

/-- Every construction gives a state of the invariant. -/
theorem boot_inv {p : CompiledProgram} {fill : List Host.Cell} {o : Options} {s : State} (h : boot p fill o = some s) :
    Inv s := by
  obtain ⟨ha, rfl⟩ := admits_of_boot h
  exact midStep_endCheck (bootLoaded_midStep ha) rfl

/-- The end check ends a construction exactly when the table has no entry (R133). -/
theorem endCheck_bootLoaded (p : CompiledProgram) (fill : List Host.Cell) (o : Options) :
    (endCheck (bootLoaded p fill o)).status = (if p.program.lines = [] then .terminated else .running) ∧
      (endCheck (bootLoaded p fill o)).reachedBottom = p.program.lines.isEmpty := by
  by_cases hp : p.program.lines = []
  · rw [endCheck_of_end (s := bootLoaded p fill o) rfl (instrEnd_eq_zero_iff.2 hp).symm]
    simp [hp]
  · rw [endCheck_of_not_end (s := bootLoaded p fill o) fun h => hp (instrEnd_eq_zero_iff.1 h.symm)]
    simp [hp, bootLoaded]

/-- Settles O7: the loaded state has the reset values and the loaded bytes, and the end check changes neither. -/
theorem bootState : Obligations.BootState := by
  intro p fill o ha
  obtain ⟨hstatus, hbottom⟩ := endCheck_bootLoaded p fill o
  refine ⟨_, boot_of_admits ha, fun n => ?data, fun n hn => ?addr, ?sp, endCheck_pc _, endCheck_flags _, hstatus, hbottom,
    endCheck_reason _, endCheck_curInterrupt _, endCheck_history _, endCheck_callStack _, endCheck_program _,
    endCheck_options _, fun b => ?byte, boot_inv (boot_of_admits ha)⟩
  case data => rw [endCheck_x, bootLoaded_x_data]
  case addr => rw [endCheck_x, bootLoaded_x_addr, if_neg hn]
  case sp => rw [endCheck_x, bootLoaded_x_addr, if_pos rfl, spInit_toNat]
  case byte =>
    rw [endCheck_mem]
    exact (readByte_loadCells ..).trans (congrArg _ (readByte_loadCells ..))

/-- Settles O8: the reset state is the construction of the empty program. -/
theorem resetInv : Obligations.ResetInv := boot_inv boot_empty

/-- Settles O6: the reset state is the construction of the empty program, so its registers, control state and history are
those of `bootState`; its stack pointer and its memory are evaluated. -/
theorem resetState : Obligations.ResetState := by
  obtain ⟨s, hs, hdata, haddr, -, hpc, hflags, hstatus, hbottom, hreason, hslot, hhistory, hcalls, -⟩ :=
    bootState { program := { lines := [], labels := [] }, image := [] } [] Options.default (by decide)
  obtain rfl : State.reset = s := Option.some.inj (boot_empty.symm.trans hs)
  exact ⟨hdata, haddr, by decide, hpc, hflags, hstatus, hreason, hbottom, hslot, hcalls, hhistory, rfl⟩

end Sys2Proof.Machine
end

section
/-! SUPPORT. The changes of status a step makes (R30), and what its history entry restores (R326, R327). -/

namespace Sys2Proof.Machine

/-! ## The status a TRAP sets -/

theorem eq_trap_of_shape {i : Instr} {v : Operand} (h : i.shape = .trap v) : i = .trap v := by
  cases i with
  | trap w => cases h; rfl
  | _ => cases h

/-- The tasks that ask the host, and the one that ends the program (R291 to R300). -/
theorem trapTask_status {task : Nat} {s t : State} (h : trapTask task s = .ok t) :
    (t.status = .interrupt ∧ task ∈ [0, 1, 2, 3, 4, 5, 6, 8]) ∨ (t.status = .terminated ∧ task = 9) := by
  unfold trapTask at h
  simp only at h
  split at h
  case h_1 | h_2 =>
    obtain ⟨_, -, h⟩ := bind_eq_ok.1 h
    cases h
    exact .inl ⟨rfl, by decide⟩
  case h_9 => cases h; exact .inr ⟨rfl, rfl⟩
  all_goals cases h
  all_goals exact .inl ⟨rfl, by decide⟩

theorem trapBody_status {v : Operand} {s t : State} (h : trapBody v s = .ok t) :
    (t.status = .interrupt ∧ (s.x (.data 0)).toNat ∈ [0, 1, 2, 3, 4, 5, 6, 8]) ∨
      (t.status = .terminated ∧ (s.x (.data 0)).toNat = 9) := by
  obtain ⟨_, -, h⟩ := bind_eq_ok.1 h
  split at h
  · obtain ⟨u, hu, h⟩ := bind_eq_ok.1 h
    cases h
    exact trapTask_status (t := u) hu
  · cases h

/-- Only a TRAP changes the status. -/
theorem bodyOf_status {i : Instr} {s t : State} (h : bodyOf i s = .ok t) :
    t.status = s.status ∨ ∃ v, i = .trap v ∧
      ((t.status = .interrupt ∧ (s.x (.data 0)).toNat ∈ [0, 1, 2, 3, 4, 5, 6, 8]) ∨
        (t.status = .terminated ∧ (s.x (.data 0)).toNat = 9)) := by
  by_cases hi : ∃ v, i.shape = .trap v
  · obtain ⟨v, hv⟩ := hi
    exact .inr ⟨v, eq_trap_of_shape hv, trapBody_status (bodyOf_of_trap hv ▸ h)⟩
  · exact .inl (writes_control (bodyOf_writes h (not_exists.1 hi))).1

/-! ## The status after a step -/

theorem endCheck_status_cases (s : State) :
    (endCheck s).status = s.status ∨
      (s.pc.toNat = instrEnd s.program ∧ (endCheck s).status = .terminated ∧ (endCheck s).reachedBottom = true) := by
  by_cases h : s.status = .running ∧ s.pc.toNat = instrEnd s.program
  · rw [endCheck_of_end h.1 h.2]; exact .inr ⟨h.2, rfl, rfl⟩
  · simp [endCheck, h]

/-- A step from status Running that takes no fault runs an entry to its end. -/
theorem step_completes {s t : State} (hs : s.status = .running) (h : step s = .next t)
    (ht : t.status ≠ .terminatedWithException) :
    ∃ line i u, fetch s = some line ∧ decode line.entry = .ok i ∧ bodyOf i s = .ok u ∧
      t = endCheck (closeEntry s.pc line.lineIndex u) := by
  obtain ⟨-, ⟨he, -⟩ | ⟨he, -⟩ | ⟨he, -⟩ | ⟨_, _, he, -⟩ | ⟨-, -, rfl⟩ | ⟨_, -, -, -, rfl⟩ |
    ⟨line, i, u, -, hf, hd, hx, rfl⟩⟩ := step_cases h
  iterate 4 exact absurd (hs.symm.trans he) nofun
  · exact absurd rfl ht
  · exact absurd rfl ht
  · rcases exec_next hx with hb | ⟨f, -, rfl⟩
    · exact ⟨line, i, u, hf, hd, hb, rfl⟩
    · exact absurd (endCheck_faulted_iff.2 rfl) ht

/-- A step that takes no fault leaves status Running as the end check or a TRAP says. -/
theorem step_completes_status {s t : State} (hs : s.status = .running) (h : step s = .next t)
    (ht : t.status ≠ .terminatedWithException) :
    t.status = .running ∨ (t.pc.toNat = instrEnd t.program ∧ t.status = .terminated ∧ t.reachedBottom = true) ∨
      ∃ line v, fetch s = some line ∧ decode line.entry = .ok (.trap v) ∧
        ((t.status = .interrupt ∧ (s.x (.data 0)).toNat ∈ [0, 1, 2, 3, 4, 5, 6, 8]) ∨
          (t.status = .terminated ∧ (s.x (.data 0)).toNat = 9)) := by
  obtain ⟨line, i, u, hf, hd, hb, rfl⟩ := step_completes hs h ht
  rcases endCheck_status_cases (closeEntry s.pc line.lineIndex u) with hsame | ⟨hpc, hend⟩
  · rw [hsame, closeEntry_status]
    rcases bodyOf_status hb with hst | ⟨v, rfl, htask⟩
    · exact .inl (hst.trans hs)
    · exact .inr (.inr ⟨line, v, hf, hd, htask⟩)
  · exact .inr (.inl ⟨by simpa using hpc, hend⟩)

theorem step_of_interrupt {s t : State} (hs : s.status = .interrupt) (h : step s = .next t) :
    (s.answers = [] ∧ t = takeFault .unansweredInterrupt s) ∨
      ∃ r rest, s.answers = r :: rest ∧ t = (answerInterrupt r { s with answers := rest }).1 := by
  obtain ⟨-, ⟨he, -⟩ | ⟨he, -⟩ | ⟨-, ha, rfl⟩ | ⟨r, rest, -, ha, rfl⟩ | ⟨he, -⟩ | ⟨_, he, -⟩ | ⟨_, _, _, he, -⟩⟩ :=
    step_cases h
  iterate 2 exact absurd (hs.symm.trans he) nofun
  · exact .inl ⟨ha, rfl⟩
  · exact .inr ⟨r, rest, ha, rfl⟩
  all_goals exact absurd (hs.symm.trans he) nofun

/-- An answer leaves the engine running or at the bottom, ends it with the fault of the store, or changes nothing. -/
theorem answerInterrupt_status {r : InterruptResult} {s t : State} (h : t = (answerInterrupt r s).1) :
    (∃ record, s.curInterrupt = some record ∧ tagMatches r record = true ∧
        (t.status = .running ∨ (t.status = .terminated ∧ t.pc.toNat = instrEnd t.program))) ∨
      (t.status = .terminatedWithException ∧ t.reason = some .addressOutOfBounds) ∨ t = s := by
  subst h
  rcases answerInterrupt_cases r s with ⟨record, t, -, hr, htag, -, -, he⟩ | ⟨_, -, -, -, -, he⟩ | ⟨_, he⟩ <;> rw [he]
  · refine .inl ⟨record, hr, htag, ?_⟩
    unfold finishAnswer
    refine (endCheck_status_cases _).imp id fun hend => ⟨hend.2.1, ?_⟩
    simpa using hend.1
  · exact .inr (.inl ⟨rfl, rfl⟩)
  · exact .inr (.inr rfl)

/-- Settles O14: each row is a case of what a step from that status can do. -/
theorem statusTransitions : Obligations.StatusTransitions := by
  intro s t h
  refine ⟨fun hs ht => ?toInterrupt, fun hs ht => ?toTerminated, fun hs ht => ?toFault, fun hs ht => ?answered,
    fun hs ht => ?answerFaults, fun hs => ?terminated, fun hs => ?faulted⟩
  case toInterrupt =>
    rcases step_completes_status hs h (by simp [ht]) with he | ⟨-, he, -⟩ | ⟨line, v, hf, hd, ⟨-, htask⟩ | ⟨he, -⟩⟩
    · exact absurd (ht.symm.trans he) nofun
    · exact absurd (ht.symm.trans he) nofun
    · exact ⟨line, v, hf, hd, htask⟩
    · exact absurd (ht.symm.trans he) nofun
  case toTerminated =>
    rcases step_completes_status hs h (by simp [ht]) with he | ⟨hpc, -, hb⟩ | ⟨line, v, hf, hd, ⟨he, -⟩ | ⟨-, htask⟩⟩
    · exact absurd (ht.symm.trans he) nofun
    · exact .inl ⟨hpc, hb⟩
    · exact absurd (ht.symm.trans he) nofun
    · exact .inr ⟨line, v, hf, hd, htask⟩
  case toFault =>
    obtain ⟨f, rfl | ⟨line, rfl⟩⟩ := step_faulted hs h ht
    · exact ⟨f, rfl⟩
    · exact ⟨f, rfl⟩
  case answered =>
    obtain ⟨-, rfl⟩ | ⟨r, rest, ha, he⟩ := step_of_interrupt hs h
    · simp at ht
    · rcases answerInterrupt_status he with ⟨record, hr, htag, hend⟩ | ⟨hfault, -⟩ | rfl
      · refine ⟨r, rest, record, ha, hr, htag, fun hterm => ?_⟩
        rcases hend with hrun | ⟨-, hpc⟩
        · exact absurd (hterm.symm.trans hrun) nofun
        · exact hpc
      · simp [hfault] at ht
      · simp [hs] at ht
  case answerFaults =>
    obtain ⟨-, rfl⟩ | ⟨r, rest, -, he⟩ := step_of_interrupt hs h
    · exact .inl rfl
    · rcases answerInterrupt_status he with ⟨_, -, -, hrun | ⟨hterm, -⟩⟩ | ⟨-, hr⟩ | rfl
      · exact absurd (ht.symm.trans hrun) nofun
      · exact absurd (ht.symm.trans hterm) nofun
      · exact .inr hr
      · exact absurd (ht.symm.trans hs) nofun
  case terminated =>
    obtain ⟨-, ⟨-, rfl⟩ | hrest⟩ := step_cases h
    · exact hs
    · simp [hs] at hrest
  case faulted =>
    obtain ⟨-, ⟨he, -⟩ | ⟨-, rfl⟩ | hrest⟩ := step_cases h
    · exact absurd (hs.symm.trans he) nofun
    · exact hs
    · simp [hs] at hrest

/-! ## What the recorded mutations restore -/

/-- The mutations recorded between `s` and `u`, undone in reverse order, give the machine of `s` back. -/
def RecordsUndo (s u : State) : Prop :=
  ∃ ms, u.openEntry = s.openEntry ++ ms ∧
    ∀ w, SameMachine w u → SameMachine (ms.reverse.foldl undoMutation w) s

theorem takeFault_recordsUndo (f : Fault) (s : State) : RecordsUndo s (takeFault f s) :=
  ⟨[], by simp, fun _ hw => hw⟩

/-- A TRAP that answers a state changes, of the machine, `pc` alone. -/
theorem trapBody_recordsUndo {v : Operand} {s t : State} (h : trapBody v s = .ok t) : RecordsUndo s t := by
  refine ⟨[.writePc s.pc], ?_, fun w hw => ?_⟩ <;> rcases trapBody_cases h with ⟨r, -, rfl⟩ | rfl
  · rfl
  · rfl
  all_goals
    obtain ⟨hd, ha, hflags, hmem, -⟩ := hw
    exact ⟨hd, ha, hflags, hmem, rfl⟩

theorem exec_recordsUndo {i : Instr} {s u : State} (hx : exec i s = .next u) (h : Inv s) : RecordsUndo s u := by
  rcases exec_next hx with hb | ⟨f, -, rfl⟩
  · by_cases hi : ∃ v, i.shape = .trap v
    · obtain ⟨v, hv⟩ := hi
      exact trapBody_recordsUndo (bodyOf_of_trap hv ▸ hb)
    · exact writes_undone (bodyOf_writes hb (not_exists.1 hi)) h.memCanonical h.memInside
  · exact takeFault_recordsUndo f s

/-- No instruction touches the history, the mark of `undo`, the host's answers, the program or the options. -/
theorem exec_keeps {i : Instr} {s u : State} (hx : exec i s = .next u) :
    u.history = s.history ∧ u.undone = s.undone ∧ u.answers = s.answers ∧ u.program = s.program ∧
      u.options = s.options := by
  rcases exec_next hx with hb | ⟨f, -, rfl⟩
  · by_cases hi : ∃ v, i.shape = .trap v
    · obtain ⟨v, hv⟩ := hi
      rcases trapBody_cases (bodyOf_of_trap hv ▸ hb) with ⟨r, -, rfl⟩ | rfl <;> simp
    · obtain ⟨-, -, -, -, hkept⟩ := writes_control (bodyOf_writes hb (not_exists.1 hi))
      exact hkept
  · simp

theorem sameMachine_x {u s : State} (h : SameMachine u s) (r : Reg) : u.x r = s.x r := by
  obtain ⟨hd, ha, -⟩ := h
  cases r with
  | data n => simp only [State.x, hd]
  | addr n => simp only [State.x, ha]

/-- A step that executed an entry with room in its ring leaves the entry of that step first, and the inverses of its
mutations give the machine before the step back (R326). -/
theorem step_recordsUndo {s t : State} {line : InstructionLine} (hinv : Inv s) (hs : s.status = .running)
    (hf : fetch s = some line) (h : step s = .next t) (hk : s.options.keepHistory = true)
    (hsize : 0 < s.options.historySize) :
    ∃ ms, t.history = { pcBefore := s.pc, mutations := ms, lineIndex := line.lineIndex } ::
        s.history.take (s.options.historySize - 1) ∧ SameMachine (ms.reverse.foldl undoMutation t) s := by
  obtain ⟨u, rfl, hu⟩ := step_of_line hs hf h
  have hkeeps : u.history = s.history ∧ u.options = s.options := by
    rcases hu with rfl | ⟨i, -, hx⟩
    · exact ⟨rfl, rfl⟩
    · obtain ⟨hhist, -, -, -, hopt⟩ := exec_keeps hx
      exact ⟨hhist, hopt⟩
  have hrec : RecordsUndo s u := by
    rcases hu with rfl | ⟨i, -, hx⟩
    · exact takeFault_recordsUndo _ s
    · exact exec_recordsUndo hx hinv
  obtain ⟨ms, hms, hundo⟩ := hrec
  obtain ⟨hhist, hopt⟩ := hkeeps
  rw [hinv.entryClosed, List.nil_append] at hms
  refine ⟨ms, ?_, hundo _ ⟨by simp, by simp, by simp, by simp, by simp⟩⟩
  rw [endCheck_history]
  simp only [closeEntry, hopt, hk, if_true, hhist, hms]
  exact List.take_cons hsize

/-- Undoing pops the newest entry and runs its inverses, last change first (R327). -/
theorem undo_of_history {t : State} {e : ExecutionStep} {rest : List ExecutionStep} (h : t.history = e :: rest) :
    undo t = some { e.mutations.reverse.foldl undoMutation t with pc := e.pcBefore, history := rest, undone := true } := by
  rw [undo, h]

/-- Settles O19: the newest entry is the one of the step, and its inverses restore the machine. -/
theorem undoRestores : Obligations.UndoRestores := by
  intro s t line hinv hs hf h hk hsize
  obtain ⟨ms, hhist, hsame⟩ := step_recordsUndo hinv hs hf h hk hsize
  have hprev : getPreviousMutations t = ms := by simp [getPreviousMutations, hhist]
  have hx := sameMachine_x hsame
  obtain ⟨hd, ha, hflags, hmem, hpc⟩ := hsame
  refine ⟨by simp [canUndo, hhist], _, undo_of_history hhist, ?_, hmem, hflags, rfl, rfl, _, rfl, ?_⟩
  · exact sameMachine_x ⟨hd, ha, hflags, hmem, rfl⟩
  · rw [hprev]
    exact ⟨hx, hmem, hflags, hpc⟩

end Sys2Proof.Machine
end

section
/-! SUPPORT. The flags each family leaves alone (R28). -/

namespace Sys2Proof.Machine

/-! ## The shared operations -/

theorem readSource_flags {op : Operand} {sz : Size} {s : State} {p : BitVec sz.bits × State}
    (h : readSource op sz s = .ok p) : p.2.flags = s.flags := by
  obtain ⟨l, hl, -⟩ := readSource_eq_ok.1 h
  exact resolve_flags hl

theorem writeDest_flags {op : Operand} {sz : Size} {v : BitVec sz.bits} {s t : State}
    (h : writeDest op sz v s = .ok t) : t.flags = s.flags := by
  obtain ⟨l, u, hl, -, rfl⟩ := writeDest_eq_ok.1 h
  rw [putLoc_flags, resolve_flags hl]

theorem modifyDest_flags {op : Operand} {sz : Size} {f : BitVec sz.bits → Flags → Computed sz.bits} {s t : State}
    (h : modifyDest op sz f s = .ok t) : ∃ v, t.flags = (f v s.flags).flags := by
  obtain ⟨l, u, v, hl, -, -, rfl⟩ := modifyDest_eq_ok.1 h
  exact ⟨v, by rw [putFlags_flags, resolve_flags hl]⟩

theorem regWrite_flags {r : Reg} {sz : Size} {v : BitVec sz.bits} {s t : State} (h : regWrite r sz v s = .ok t) :
    t.flags = s.flags := by
  obtain ⟨-, rfl⟩ := regWrite_eq_ok.1 h
  exact putReg_flags ..

theorem memWrite_flags {addr : Word} {sz : Size} {v : BitVec sz.bits} {s t : State} (h : memWrite addr sz v s = .ok t) :
    t.flags = s.flags := by
  obtain ⟨-, rfl⟩ := memWrite_eq_ok.1 h
  exact storeAt_flags ..

theorem push32_flags {v : Word} {s t : State} (h : push32 v s = .ok t) : t.flags = s.flags := by
  obtain ⟨-, rfl⟩ := push32_eq_ok.1 h
  rw [storeAt_flags, putReg_flags]

theorem pop32_flags {s : State} {p : Word × State} (h : pop32 s = .ok p) : p.2.flags = s.flags := by
  obtain ⟨-, rfl⟩ := pop32_eq_ok.1 h
  exact putReg_flags ..

theorem storeUp_flags {sz : Size} {rs : List Reg} {addr : Word} {s t : State} (h : storeUp sz rs addr s = .ok t) :
    t.flags = s.flags := by
  induction rs generalizing addr s with
  | nil => cases h; rfl
  | cons r rs ih =>
    obtain ⟨u, hu, h⟩ := bind_eq_ok.1 h
    exact (ih h).trans (memWrite_flags hu)

theorem storeDown_flags {sz : Size} {rs : List Reg} {addr : Word} {s : State} {p : Word × State}
    (h : storeDown sz rs addr s = .ok p) : p.2.flags = s.flags := by
  induction rs generalizing addr s with
  | nil => cases h; rfl
  | cons r rs ih =>
    obtain ⟨u, hu, h⟩ := bind_eq_ok.1 h
    exact (ih h).trans (memWrite_flags hu)

theorem loadUp_flags {sz : Size} {rs : List Reg} {addr : Word} {s : State} {p : Word × State}
    (h : loadUp sz rs addr s = .ok p) : p.2.flags = s.flags := by
  induction rs generalizing addr s with
  | nil => cases h; rfl
  | cons r rs ih =>
    obtain ⟨v, -, h⟩ := bind_eq_ok.1 h
    obtain ⟨u, hu, h⟩ := bind_eq_ok.1 h
    exact (ih h).trans (regWrite_flags hu)

theorem bitWriteBack_flags {op : BitOp} {l : Loc} {sz : Size} {v : BitVec sz.bits} {s t : State}
    (h : bitWriteBack op l sz v s = .ok t) : t.flags = s.flags := by
  cases op with
  | tst => cases h; rfl
  | chg | clr | set =>
    obtain ⟨-, rfl⟩ := writeLoc_eq_ok.1 h
    exact putLoc_flags ..

/-- A read-modify-write whose flags keep `X` keeps it. -/
theorem modify_keepsX {dst : Operand} {sz : Size} {f : BitVec sz.bits → Flags → Computed sz.bits} {s t : State}
    (hf : ∀ v g, (f v g).flags.x = g.x) (h : (do let u ← modifyDest dst sz f s; .ok u.advance) = (.ok t : Res State)) :
    t.flags.x = s.flags.x := by
  obtain ⟨u, hu, h⟩ := bind_eq_ok.1 h
  cases h
  obtain ⟨v, hv⟩ := modifyDest_flags hu
  rw [advance_flags, hv, hf]

/-- Rotates leave `X` alone (R231, R232), and so does a zero count (R226). -/
theorem shiftCompute_keepsX {op : ShiftOp} (hop : op ∈ [ShiftOp.rol, ShiftOp.ror]) {w : Nat} (c : Nat) (v : BitVec w)
    (f : Flags) : (shiftCompute op c v f).flags.x = f.x := by
  unfold shiftCompute
  split
  · rfl
  · rcases List.mem_pair.1 hop with rfl | rfl <;> rfl

/-! ## The instructions that change no flag -/

section
variable {s t : State}

theorem addrArithBody_flags {sz : Size} {f : Word → Word → Word} {src dst : Operand}
    (h : addrArithBody sz f src dst s = .ok t) : t.flags = s.flags := by
  simp only [addrArithBody, bind_eq_ok, Except.ok.injEq] at h
  obtain ⟨p, hp, r, -, rfl⟩ := h
  rw [advance_flags, putReg_flags, readSource_flags hp]

theorem branchBody_flags {k : Cond} {target : Operand} (h : branchBody k target s = .ok t) : t.flags = s.flags := by
  simp only [branchBody, bind_eq_ok, Except.ok.injEq] at h
  obtain ⟨p, -, rfl⟩ := h
  split <;> rfl

theorem braBody_flags {target : Operand} (h : braBody target s = .ok t) : t.flags = s.flags := by
  simp only [braBody, bind_eq_ok, Except.ok.injEq] at h
  obtain ⟨p, -, rfl⟩ := h
  rfl

theorem callBody_flags {target : State → Res Word} (h : callBody target s = .ok t) : t.flags = s.flags := by
  simp only [callBody, bind_eq_ok, Except.ok.injEq] at h
  obtain ⟨p, -, u, hu, rfl⟩ := h
  exact (push32_flags hu :)

theorem rtsBody_flags (h : rtsBody s = .ok t) : t.flags = s.flags := by
  simp only [rtsBody, bind_eq_ok, Except.ok.injEq] at h
  obtain ⟨p, hp, rfl⟩ := h
  exact pop32_flags hp

theorem decBranchBody_flags {k : Cond} {counter target : Operand} (h : decBranchBody k counter target s = .ok t) :
    t.flags = s.flags := by
  obtain ⟨r, -, h⟩ := bind_eq_ok.1 h
  obtain ⟨p, -, h⟩ := bind_eq_ok.1 h
  split at h
  · cases h; rfl
  · obtain ⟨u, hu, h⟩ := bind_eq_ok.1 h
    cases h
    split <;> exact (regWrite_flags hu :)

theorem setBody_flags {k : Cond} {dst : Operand} (h : setBody k dst s = .ok t) : t.flags = s.flags := by
  simp only [setBody, bind_eq_ok, Except.ok.injEq] at h
  obtain ⟨u, hu, rfl⟩ := h
  exact (writeDest_flags hu :)

theorem leaBody_flags {src dst : Operand} (h : leaBody src dst s = .ok t) : t.flags = s.flags := by
  simp only [leaBody, bind_eq_ok, Except.ok.injEq] at h
  obtain ⟨ea, -, r, -, rfl⟩ := h
  rw [advance_flags, putReg_flags]

theorem peaBody_flags {src : Operand} (h : peaBody src s = .ok t) : t.flags = s.flags := by
  simp only [peaBody, bind_eq_ok, Except.ok.injEq] at h
  obtain ⟨ea, -, u, hu, rfl⟩ := h
  exact (push32_flags hu :)

theorem linkBody_flags {reg disp : Operand} (h : linkBody reg disp s = .ok t) : t.flags = s.flags := by
  simp only [linkBody, bind_eq_ok, Except.ok.injEq] at h
  obtain ⟨r, -, v, -, u, hu, rfl⟩ := h
  rw [advance_flags, putReg_flags, putReg_flags, push32_flags hu]

theorem unlkBody_flags {reg : Operand} (h : unlkBody reg s = .ok t) : t.flags = s.flags := by
  simp only [unlkBody, bind_eq_ok, Except.ok.injEq] at h
  obtain ⟨r, -, p, hp, rfl⟩ := h
  rw [advance_flags, putReg_flags, pop32_flags hp, putReg_flags]

theorem movemStoreBody_flags {sz : Size} {reglist : BitVec 16} {dst : Operand}
    (h : movemStoreBody sz reglist dst s = .ok t) : t.flags = s.flags := by
  unfold movemStoreBody at h
  split at h <;> simp only [bind_eq_ok, Except.ok.injEq, reduceCtorEq] at h
  · obtain ⟨p, hp, rfl⟩ := h; rw [advance_flags, putReg_flags, storeDown_flags hp]
  · obtain ⟨u, hu, rfl⟩ := h; exact (storeUp_flags hu :)
  · obtain ⟨u, hu, rfl⟩ := h; exact (storeUp_flags hu :)

theorem movemLoadBody_flags {sz : Size} {src : Operand} {reglist : BitVec 16}
    (h : movemLoadBody sz src reglist s = .ok t) : t.flags = s.flags := by
  unfold movemLoadBody at h
  split at h <;> simp only [bind_eq_ok, Except.ok.injEq, reduceCtorEq] at h
  · obtain ⟨p, hp, rfl⟩ := h; rw [advance_flags, putReg_flags, loadUp_flags hp]
  · obtain ⟨p, hp, rfl⟩ := h; exact loadUp_flags hp
  · obtain ⟨p, hp, rfl⟩ := h; exact loadUp_flags hp

theorem trapBody_flags {vector : Operand} (h : trapBody vector s = .ok t) : t.flags = s.flags := by
  rcases trapBody_cases h with ⟨r, -, rfl⟩ | rfl <;> rfl

/-! ## The instructions that keep `X`, or all flags but `Z` -/

theorem moveBody_keepsX {sz : Size} {src dst : Operand} (h : moveBody sz src dst s = .ok t) :
    t.flags.x = s.flags.x := by
  simp only [moveBody, bind_eq_ok, Except.ok.injEq] at h
  obtain ⟨p, hp, u, hu, rfl⟩ := h
  rw [advance_flags, putFlags_flags, logicFlags, writeDest_flags hu, readSource_flags hp]

theorem moveqBody_keepsX {src dst : Operand} (h : moveqBody src dst s = .ok t) : t.flags.x = s.flags.x := by
  simp only [moveqBody, bind_eq_ok, Except.ok.injEq] at h
  obtain ⟨v, -, r, -, u, hu, rfl⟩ := h
  rw [advance_flags, putFlags_flags, logicFlags, regWrite_flags hu]

theorem cmpBody_keepsX {sz : Size} {src dst : Operand} (h : cmpBody sz src dst s = .ok t) : t.flags.x = s.flags.x := by
  simp only [cmpBody, bind_eq_ok, Except.ok.injEq] at h
  obtain ⟨p, hp, r, -, v, -, rfl⟩ := h
  rw [advance_flags, putFlags_flags, cmpFlags, readSource_flags hp]

theorem tstBody_keepsX {sz : Size} {dst : Operand} (h : tstBody sz dst s = .ok t) : t.flags.x = s.flags.x := by
  simp only [tstBody, bind_eq_ok, Except.ok.injEq] at h
  obtain ⟨p, hp, rfl⟩ := h
  rw [advance_flags, putFlags_flags, logicFlags, readSource_flags hp]

theorem notBody_keepsX {sz : Size} {dst : Operand} (h : notBody sz dst s = .ok t) : t.flags.x = s.flags.x :=
  modify_keepsX (fun _ _ => rfl) h

theorem logicBody_keepsX {sz : Size} {f : BitVec sz.bits → BitVec sz.bits → BitVec sz.bits} {src dst : Operand}
    (h : logicBody sz f src dst s = .ok t) : t.flags.x = s.flags.x := by
  obtain ⟨p, hp, h⟩ := bind_eq_ok.1 h
  exact (modify_keepsX (fun _ _ => rfl) h).trans (congrArg Flags.x (readSource_flags hp))

theorem mulDivBody_keepsX {f : BitVec 16 → Word → Res MulDivResult} {src dst : Operand}
    (h : mulDivBody f src dst s = .ok t) : t.flags.x = s.flags.x := by
  simp only [mulDivBody, bind_eq_ok, Except.ok.injEq] at h
  obtain ⟨p, hp, r, -, out, -, rfl⟩ := h
  rw [advance_flags, putFlags_flags, putReg_flags, readSource_flags hp]

theorem shiftBody_keepsX {op : ShiftOp} (hop : op ∈ [ShiftOp.rol, ShiftOp.ror]) {sz : Size} {args : ShiftArgs}
    (h : shiftBody op sz args s = .ok t) : t.flags.x = s.flags.x := by
  cases args with
  | counted count dst =>
    obtain ⟨c, -, h⟩ := bind_eq_ok.1 h
    exact modify_keepsX (shiftCompute_keepsX hop c) h
  | memory dst => exact modify_keepsX (shiftCompute_keepsX hop 1) h

theorem bitBody_changesZ {op : BitOp} {sz : Size} {bitnum dst : Operand} (h : bitBody op sz bitnum dst s = .ok t) :
    t.flags = { s.flags with z := t.flags.z } := by
  simp only [bitBody, bind_eq_ok, Except.ok.injEq] at h
  obtain ⟨num, -, l, hl, v, -, u, hu, rfl⟩ := h
  rw [advance_flags, bitWriteBack_flags hu, putFlags_flags, resolve_flags hl]

/-- ADD, ADDQ, SUB and SUBQ, whose computations set `X` to `C` (R180, R181). -/
theorem arithBody_setsX {sz : Size} {f : BitVec sz.bits → BitVec sz.bits → Flags → Computed sz.bits}
    (hf : ∀ a v g, (f a v g).flags.x = (f a v g).flags.c) {src dst : Operand} (h : arithBody sz f src dst s = .ok t) :
    t.flags.x = t.flags.c := by
  simp only [arithBody, bind_eq_ok, Except.ok.injEq] at h
  obtain ⟨p, -, u, hu, rfl⟩ := h
  obtain ⟨v, hv⟩ := modifyDest_flags hu
  rw [advance_flags, hv, hf]

end

/-! ## The matrix -/

/-- The rows of R28 that the shape decides, between the flags `f` before an instruction and `g` after it. The shapes of TST,
NEG, NOT and of the shifts hold instructions of two rows, and what ADD, ADDQ, SUB and SUBQ do to `X` depends on their
computation (`addSub_setsX`): these are left free. -/
def FlagRow (sh : Shape) (f g : Flags) : Prop :=
  match sh with
  | .toAddr _ _ _ | .branch _ | .jump _ | .bare | .decBranch _ _ | .setByte _ | .loadAddr _ _ | .pushAddr _
  | .link _ _ | .unlink _ | .storeRegs _ _ _ | .loadRegs _ _ _ | .trap _ => g = f
  | .bit _ _ _ => g = { f with z := g.z }
  | .move _ _ _ | .moveq _ _ | .compare _ _ _ | .andOr _ _ _ | .eor _ _ _ | .mulDiv _ _ | .dataReg _ => g.x = f.x
  | .unary _ _ | .shift _ _ | .addSub _ _ _ | .quick _ _ _ => True

theorem bodyOf_flagRow {i : Instr} {s t : State} (h : bodyOf i s = .ok t) : FlagRow i.shape s.flags t.flags := by
  refine bodyOf_families
    (P := fun sh body => ∀ s t, body s = .ok t → FlagRow sh s.flags t.flags)
    (move := fun _ _ _ _ _ => moveBody_keepsX)
    (moveq := fun _ _ _ _ => moveqBody_keepsX)
    (addSub := fun _ _ _ _ _ _ _ => trivial)
    (quick := fun _ _ _ _ _ _ _ => trivial)
    (toAddr := fun _ _ _ _ _ _ => addrArithBody_flags)
    (compare := fun _ _ _ _ _ => cmpBody_keepsX)
    (test := fun _ _ _ _ _ => trivial)
    (neg := fun _ _ _ _ _ => trivial)
    (not := fun _ _ _ _ _ => trivial)
    (andOr := fun _ _ _ _ _ _ => logicBody_keepsX)
    (eor := fun _ _ _ _ _ _ => logicBody_keepsX)
    (mulDiv := fun _ _ _ _ _ _ => mulDivBody_keepsX)
    (ext := fun _ _ _ _ => modify_keepsX fun _ _ => rfl)
    (swap := fun _ _ _ => modify_keepsX fun _ _ => rfl)
    (shift := fun _ _ _ _ _ _ => trivial)
    (bit := fun _ _ _ _ _ _ => bitBody_changesZ)
    (branch := fun _ _ _ _ => branchBody_flags)
    (bra := fun _ _ _ => braBody_flags)
    (bsr := fun _ _ _ => callBody_flags)
    (jsr := fun _ _ _ => callBody_flags)
    (rts := fun _ _ => rtsBody_flags)
    (decBranch := fun _ _ _ _ _ => decBranchBody_flags)
    (setByte := fun _ _ _ _ => setBody_flags)
    (lea := fun _ _ _ _ => leaBody_flags)
    (pea := fun _ _ _ => peaBody_flags)
    (link := fun _ _ _ _ => linkBody_flags)
    (unlk := fun _ _ _ => unlkBody_flags)
    (storeRegs := fun _ _ _ _ _ => movemStoreBody_flags)
    (loadRegs := fun _ _ _ _ _ => movemLoadBody_flags)
    (trap := fun _ _ _ => trapBody_flags) i s t h

/-- The shape of a test, a negation or an inversion. -/
theorem bodyOf_of_unary {i : Instr} {sz : Size} {dst : Operand} (h : i.shape = .unary sz dst) :
    i = Instr.neg sz dst ∨ bodyOf i = tstBody sz dst ∨ bodyOf i = notBody sz dst := by
  cases i with
  | negB _ | negW _ | negL _ => cases h; exact .inl rfl
  | tstB _ | tstW _ | tstL _ => cases h; exact .inr (.inl rfl)
  | notB _ | notW _ | notL _ => cases h; exact .inr (.inr rfl)
  | _ => cases h

/-- The shapes of ADD and SUB, and of ADDQ and SUBQ. -/
theorem bodyOf_of_addSub {i : Instr} {sz : Size} {src dst : Operand}
    (h : i.shape = .addSub sz src dst ∨ i.shape = .quick sz src dst) :
    bodyOf i = arithBody sz addCompute src dst ∨ bodyOf i = arithBody sz subCompute src dst := by
  cases i with
  | addB _ _ | addW _ _ | addL _ _ | addqB _ _ | addqW _ _ | addqL _ _ =>
    rcases h with h | h <;> cases h
    exact .inl rfl
  | subB _ _ | subW _ _ | subL _ _ | subqB _ _ | subqW _ _ | subqL _ _ =>
    rcases h with h | h <;> cases h
    exact .inr rfl
  | _ => rcases h with h | h <;> cases h

theorem bodyOf_shifted (op : ShiftOp) (sz : Size) (args : ShiftArgs) :
    bodyOf (Instr.shifted op sz args) = shiftBody op sz args := by
  cases op <;> cases sz <;> rfl

theorem addSub_setsX {i : Instr} {sz : Size} {src dst : Operand} {s t : State}
    (hi : i.shape = .addSub sz src dst ∨ i.shape = .quick sz src dst) (h : bodyOf i s = .ok t) :
    t.flags.x = t.flags.c := by
  rcases bodyOf_of_addSub hi with he | he <;> rw [he] at h
  · exact arithBody_setsX (fun _ _ _ => rfl) h
  · exact arithBody_setsX (fun _ _ _ => rfl) h

/-- Settles O17: a fault leaves the flags; an instruction that runs to its end obeys the row of its family. -/
theorem flagMatrix : Obligations.FlagMatrix := by
  intro i s t h
  rcases exec_next h with hb | ⟨f, -, rfl⟩
  · have hrow := bodyOf_flagRow hb
    cases hi : i.shape with
    | unary sz dst =>
      intro hneg
      rcases bodyOf_of_unary hi with he | he | he
      · exact absurd he hneg
      · exact tstBody_keepsX (he ▸ hb)
      · exact notBody_keepsX (he ▸ hb)
    | shift sz args =>
      rintro ⟨op, hop, rfl⟩
      exact shiftBody_keepsX hop (bodyOf_shifted op sz args ▸ hb)
    | addSub _ _ _ => exact fun _ => addSub_setsX (.inl hi) hb
    | quick _ _ _ => exact fun _ => addSub_setsX (.inr hi) hb
    | _ => rw [hi] at hrow; exact hrow
  · cases i.shape with
    | unary _ _ | shift _ _ => exact fun _ => rfl
    | addSub _ _ _ | quick _ _ _ => exact fun ht => absurd rfl ht
    | _ => rfl

end Sys2Proof.Machine
end

section
/-! SUPPORT. The forms outside the table of R103: those that raise (R104 (a), (b)) and those that are refused (R104 (c)). -/

namespace Sys2Proof

/-! ## An address register among the operand classes -/

@[simp] theorem isAn_addr (n : Fin 8) : (Operand.register (.addr n)).isAn = true := rfl

@[simp] theorem isDn_addr (n : Fin 8) : (Operand.register (.addr n)).isDn = false := rfl

@[simp] theorem isImm_addr (n : Fin 8) : (Operand.register (.addr n)).isImm = false := rfl

@[simp] theorem isDataAlt_addr (n : Fin 8) : (Operand.register (.addr n)).isDataAlt = false := rfl

@[simp] theorem isImmIn_register (lo hi : Int) (r : Reg) : (Operand.register r).isImmIn lo hi = false := rfl

namespace Machine

/-! ## Forms that raise -/

/-- A byte access to an address register, reached by the pseudocode, is taken as a fault (R104 (a)). -/
theorem runForm_byteOnAddr {sh : Shape} {body : State → Res State} {s : State} (h : sh.byteOnAddr = true)
    (hb : body s = .error (.raise .illegalAddressingMode)) :
    runForm sh body s = .next (takeFault .illegalAddressingMode s) :=
  runForm_raise (by simp [shapeRuns, h]) hb

section
variable (n : Fin 8) (s : State)

theorem readSource_byte_addr :
    readSource (.register (.addr n)) .B s = .error (.raise .illegalAddressingMode) := rfl

theorem modifyDest_byte_addr (f : BitVec 8 → Flags → Computed 8) :
    modifyDest (.register (.addr n)) .B f s = .error (.raise .illegalAddressingMode) := rfl

theorem writeDest_byte_addr (v : BitVec 8) :
    writeDest (.register (.addr n)) .B v s = .error (.raise .illegalAddressingMode) := rfl

/-- As source, where a data register in its place would be admitted. -/
theorem byteOnAddr_source (dst : Operand) :
    (dst.isDataAlt = true → exec (.moveB (.register (.addr n)) dst) s = .next (takeFault .illegalAddressingMode s)) ∧
    ((dst.isDataAlt || dst.isAn) = true → ∀ i ∈ [Instr.addB, Instr.subB, Instr.andB, Instr.orB],
      exec (i (.register (.addr n)) dst) s = .next (takeFault .illegalAddressingMode s)) ∧
    (dst.isDn = true → exec (.cmpB (.register (.addr n)) dst) s = .next (takeFault .illegalAddressingMode s)) := by
  have hsrc := readSource_byte_addr n s
  refine ⟨fun h => ?move, fun h => ?binary, fun h => ?cmp⟩
  case move => exact runForm_byteOnAddr (by simpa [Shape.byteOnAddr] using h) (bind_of_error hsrc _)
  case binary =>
    have hadd : (Shape.addSub .B (.register (.addr n)) dst).byteOnAddr = true := by simp [Shape.byteOnAddr, h]
    have hand : (Shape.andOr .B (.register (.addr n)) dst).byteOnAddr = true := by simp [Shape.byteOnAddr, h]
    simp only [List.forall_mem_cons, List.not_mem_nil, false_implies, implies_true, and_true]
    exact ⟨runForm_byteOnAddr hadd (bind_of_error hsrc _), runForm_byteOnAddr hadd (bind_of_error hsrc _),
      runForm_byteOnAddr hand (bind_of_error hsrc _), runForm_byteOnAddr hand (bind_of_error hsrc _)⟩
  case cmp => exact runForm_byteOnAddr (by simpa [Shape.byteOnAddr] using h) (bind_of_error hsrc _)

/-- As destination, once the source has been read. -/
theorem byteOnAddr_dest {src : Operand} {u : State} {l : Loc} {a : BitVec 8} (hdata : src.isData = true)
    (hread : Reads src .B s l u a) :
    (∀ i ∈ [Instr.addB, Instr.subB, Instr.andB, Instr.orB],
      exec (i src (.register (.addr n))) s = .next (takeFault .illegalAddressingMode s)) ∧
    (src.isDn = true → exec (.eorB src (.register (.addr n))) s = .next (takeFault .illegalAddressingMode s)) := by
  have hadd : (Shape.addSub .B src (.register (.addr n))).byteOnAddr = true := by simp [Shape.byteOnAddr, hdata]
  have hand : (Shape.andOr .B src (.register (.addr n))).byteOnAddr = true := by simp [Shape.byteOnAddr, hdata]
  have harith (f) : arithBody .B f src (.register (.addr n)) s = .error (.raise .illegalAddressingMode) :=
    (bind_of_ok (readSource_of_reads hread) _).trans (bind_of_error (modifyDest_byte_addr n u _) _)
  have hlogic (f) : logicBody .B f src (.register (.addr n)) s = .error (.raise .illegalAddressingMode) :=
    (bind_of_ok (readSource_of_reads hread) _).trans (bind_of_error (modifyDest_byte_addr n u _) _)
  refine ⟨?_, fun h => runForm_byteOnAddr (by simpa [Shape.byteOnAddr] using h) (hlogic _)⟩
  simp only [List.forall_mem_cons, List.not_mem_nil, false_implies, implies_true, and_true]
  exact ⟨runForm_byteOnAddr hadd (harith _), runForm_byteOnAddr hadd (harith _), runForm_byteOnAddr hand (hlogic _),
    runForm_byteOnAddr hand (hlogic _)⟩

theorem shiftCount_answers {count : Operand} (h : (count.isImmIn 1 8 || count.isDn) = true) (s : State) :
    ∃ c, shiftCount count s = .ok c := by
  rcases Bool.or_eq_true_iff.1 h with h | h
  · obtain ⟨v, rfl, -⟩ := isImmIn_iff.1 h; exact ⟨_, rfl⟩
  · obtain ⟨m, rfl⟩ := isDn_iff.1 h; exact ⟨_, rfl⟩

/-- As the one operand an instruction accesses. -/
theorem byteOnAddr_only :
    (∀ i ∈ [Instr.tstB, Instr.negB, Instr.notB],
      exec (i (.register (.addr n))) s = .next (takeFault .illegalAddressingMode s)) ∧
    (∀ k : Cond, exec (Instr.setOn k (.register (.addr n))) s = .next (takeFault .illegalAddressingMode s)) ∧
    (∀ (op : ShiftOp) (count : Operand), (count.isImmIn 1 8 || count.isDn) = true →
      exec (Instr.shifted op .B (.counted count (.register (.addr n)))) s
        = .next (takeFault .illegalAddressingMode s)) ∧
    (∀ (op : BitOp) (bitnum : Operand), (bitnum.isImm || bitnum.isDn) = true →
      exec (Instr.bitOnByte op bitnum (.register (.addr n))) s = .next (takeFault .illegalAddressingMode s)) := by
  have hmod := modifyDest_byte_addr n s
  refine ⟨?unary, fun k => ?setByte, fun op count h => ?shift, fun op bitnum h => ?bit⟩
  case unary =>
    have hunary : (Shape.unary .B (.register (.addr n))).byteOnAddr = true := rfl
    simp only [List.forall_mem_cons, List.not_mem_nil, false_implies, implies_true, and_true]
    exact ⟨(exec_tst .B ..).trans (runForm_byteOnAddr hunary (bind_of_error (readSource_byte_addr n s) _)),
      (exec_neg .B ..).trans (runForm_byteOnAddr hunary (bind_of_error (hmod _) _)),
      (exec_not .B ..).trans (runForm_byteOnAddr hunary (bind_of_error (hmod _) _))⟩
  case setByte =>
    rw [exec_setOn]
    exact runForm_byteOnAddr rfl (bind_of_error (writeDest_byte_addr n s _) _)
  case shift =>
    obtain ⟨c, hc⟩ := shiftCount_answers h s
    rw [exec_shifted]
    exact runForm_byteOnAddr (by simp [Shape.byteOnAddr, h]) ((bind_of_ok hc _).trans (bind_of_error (hmod _) _))
  case bit =>
    -- the bit number reads as it does in the admitted form on `D0`
    obtain ⟨k, hk⟩ := numberOf_of_bit (sz := .L) (dst := .register (.data 0)) (Bool.and_eq_true_iff.2 ⟨h, rfl⟩) s
    rw [exec_bitOnByte]
    exact runForm_byteOnAddr (by simp [Shape.byteOnAddr, h]) ((bind_of_ok hk _).trans rfl)

end

/-- A TRAP with another vector (R104 (b), R290). -/
theorem otherVector_raises {v : Word} (hv : v ≠ 15) (s : State) :
    exec (.trap (.immediate v)) s = .next (takeFault .illegalInstruction s) := by
  have hne : v.toNat ≠ Config.trapVector := fun h => hv (BitVec.eq_of_toNat_eq h)
  have hother : (Shape.trap (.immediate v)).otherVector = true := bne_iff_ne.2 hv
  refine runForm_raise (by simp [shapeRuns, hother]) ?_
  exact (bind_of_ok (rfl : immOf (.immediate v) = .ok v) _).trans (if_neg hne)

/-! ## Forms that are refused -/

theorem runForm_refused {sh : Shape} (h : shapeRuns sh = false) (body : State → Res State) (s : State) :
    runForm sh body s = .refused .formNotAdmitted := by
  simp [runForm, h]

/-- An address register is no destination of MOVE, ADDQ and SUBQ (R170, R184, R187). -/
theorem noDest_addr (sz : Size) (src : Operand) (n : Fin 8) :
    shapeRuns (.move sz src (.register (.addr n))) = false ∧ shapeRuns (.quick sz src (.register (.addr n))) = false := by
  cases sz <;> simp [shapeRuns, Shape.admitted, Shape.byteOnAddr, Shape.otherVector]

/-- A register is no constant of ADDQ and SUBQ (R184, R187). -/
theorem noConstant_register (r : Reg) (dst : Operand) : shapeRuns (.quick .B (.register r) dst) = false := by
  simp [shapeRuns, Shape.admitted, Shape.byteOnAddr, Shape.otherVector]

/-- CMP compares with a data register only (R188). -/
theorem compare_only_dn (sz : Size) (src : Operand) {dst : Operand} (h : dst.isDn = false) :
    shapeRuns (.compare sz src dst) = false := by
  cases sz <;> simp [shapeRuns, Shape.admitted, Shape.byteOnAddr, Shape.otherVector, h]

/-- EOR takes a data register only as its source (R213). -/
theorem eor_only_dn (sz : Size) {src : Operand} (dst : Operand) (h : src.isDn = false) :
    shapeRuns (.eor sz src dst) = false := by
  cases sz <;> simp [shapeRuns, Shape.admitted, Shape.byteOnAddr, Shape.otherVector, h]

/-- Settles O5: each form that raises runs its pseudocode into the fault; every other form outside the table does not run. -/
theorem formsOutsideTheTable : Obligations.FormsOutsideTheTable := by
  refine ⟨fun n dst s => byteOnAddr_source n s dst, fun n src s u l a => byteOnAddr_dest n s,
    fun n s => byteOnAddr_only n s, fun v s hv => otherVector_raises hv s, fun sz src n s => ?noDest,
    fun n dst s => ?noConstant, fun sz src dst s h => ?cmp, fun sz src dst s h => ?eor, fun i s hw hb ho => ?rest⟩
  case noDest =>
    obtain ⟨hmove, hquick⟩ := noDest_addr sz src n
    simp only [List.forall_mem_cons, List.not_mem_nil, false_implies, implies_true, and_true]
    exact ⟨(exec_move ..).trans (runForm_refused hmove ..), (exec_addq ..).trans (runForm_refused hquick ..),
      (exec_subq ..).trans (runForm_refused hquick ..)⟩
  case noConstant =>
    have hquick := noConstant_register (.addr n) dst
    simp only [List.forall_mem_cons, List.not_mem_nil, false_implies, implies_true, and_true]
    exact ⟨(exec_addq .B ..).trans (runForm_refused hquick ..), (exec_subq .B ..).trans (runForm_refused hquick ..)⟩
  case cmp => exact (exec_cmp ..).trans (runForm_refused (compare_only_dn sz src h) ..)
  case eor => exact (exec_eor ..).trans (runForm_refused (eor_only_dn sz dst h) ..)
  case rest =>
    have hw : i.shape.admitted = false := hw
    exact (exec_eq_runForm i s).trans (runForm_refused (by simp [shapeRuns, hw, hb, ho]) ..)

end Machine

end Sys2Proof
end

section
/-! SUPPORT. Register access at a size (R22, R23), and what the host sees and writes (R26, R35, R331). -/

namespace Sys2Proof.Machine

/-! ## Registers -/

/-- What a register holds after a write to it (R23). -/
theorem regWrite_x {r : Reg} {sz : Size} {v : BitVec sz.bits} {s t : State} (h : regWrite r sz v s = .ok t) :
    t.x r = mergeReg r sz (s.x r) v := by
  obtain ⟨-, rfl⟩ := regWrite_eq_ok.1 h
  simp

/-- Settles O22: a write is the recorded replacement of the register by its merged content. -/
theorem registerAccess : Obligations.RegisterAccess := by
  refine ⟨fun r sz s hr => ⟨regRead_eq_ok.2 ⟨hr, rfl⟩, fun v => ⟨_, regWrite_eq_ok.2 ⟨hr, rfl⟩, ?_⟩⟩,
    fun _ _ _ _ h => regWrite_x h, fun _ _ _ _ h => regWrite_x h, fun _ _ _ _ h => regWrite_x h,
    fun _ _ _ _ h => regWrite_x h, fun _ _ _ _ h => regWrite_x h, fun _ _ => ⟨rfl, fun _ => rfl⟩⟩
  exact ⟨fun r' hne => by simp [hne], onlyChanges_putReg .., putReg_flags .., putReg_pc .., putReg_callStack ..,
    putReg_openEntry ..⟩

/-! ## The host's view -/

/-- The place of each flag in the byte (R26). -/
theorem ccrByte_bits (f : Flags) :
    (ccrByte f).getLsbD 4 = f.x ∧ (ccrByte f).getLsbD 3 = f.n ∧ (ccrByte f).getLsbD 2 = f.z ∧
      (ccrByte f).getLsbD 1 = f.v ∧ (ccrByte f).getLsbD 0 = f.c ∧
      (ccrByte f).getLsbD 7 = false ∧ (ccrByte f).getLsbD 6 = false ∧ (ccrByte f).getLsbD 5 = false := by
  obtain ⟨x, n, z, v, c⟩ := f
  revert x n z v c
  decide

theorem setRegisterValue_eq_ok {r : Reg} {v : Word} {sz : Size} {s t : State} :
    setRegisterValue r v sz s = .ok t ↔
      byteOnAddr r sz = false ∧ t = s.withReg r (mergeReg r sz (s.x r) (v.setWidth sz.bits)) := by
  unfold setRegisterValue
  cases byteOnAddr r sz <;> simp [eq_comm]

theorem onlyChanges_withReg (s : State) (r : Reg) (v : Word) : OnlyChanges s (s.withReg r v) [r] noByte := by
  refine ⟨fun r' hr => ?_, fun _ _ => by simp, ?_, ?_, ?_, ?_, ?_, ?_, ?_, ?_, ?_⟩ <;> simp
  intro h; simp [h] at hr

/-- Settles O59: the views are projections of the state; a host write is an unrecorded register write. -/
theorem hostView : Obligations.HostView := by
  refine ⟨fun f => ?flags, fun s => ⟨rfl, rfl, fun n => ⟨rfl, rfl⟩, rfl, rfl⟩,
    fun r v sz s hr => ⟨_, setRegisterValue_eq_ok.2 ⟨hr, rfl⟩, by simp, onlyChanges_withReg .., withReg_pc ..,
      withReg_flags .., withReg_callStack .., withReg_openEntry ..⟩⟩
  obtain ⟨hx, hn, hz, hv, hc, h7, h6, h5⟩ := ccrByte_bits f
  exact ⟨hx, hn, hz, hv, hc, h7, h6, h5, rfl⟩

end Sys2Proof.Machine
end

section
/-! SUPPORT. Access to data memory: its checks, its faults, its byte order (R61 to R65); and that no step writes the program
or the options (R34, R75). -/

namespace Sys2Proof.Machine

/-! ## The program and the options -/

theorem answerInterrupt_keepsProgram (r : InterruptResult) (s : State) :
    (answerInterrupt r s).1.program = s.program ∧ (answerInterrupt r s).1.options = s.options := by
  rcases answerInterrupt_cases r s with ⟨_, t, -, -, -, -, hw, he⟩ | ⟨_, -, -, -, -, he⟩ | ⟨_, he⟩ <;> rw [he]
  · obtain ⟨-, -, -, -, -, -, -, hkept⟩ := writes_control hw
    simpa [finishAnswer] using hkept
  · exact ⟨rfl, rfl⟩
  · exact ⟨rfl, rfl⟩

/-- Settles O15: an instruction and an answer only make recorded writes, and no such write reaches the program. -/
theorem programConstant : Obligations.ProgramConstant := by
  intro s t h
  obtain ⟨-, ⟨-, rfl⟩ | ⟨-, rfl⟩ | ⟨-, -, rfl⟩ | ⟨r, rest, -, -, rfl⟩ | ⟨-, -, rfl⟩ | ⟨line, -, -, -, rfl⟩ |
    ⟨line, i, u, -, -, -, hx, rfl⟩⟩ := step_cases h
  iterate 3 exact ⟨rfl, rfl⟩
  · exact answerInterrupt_keepsProgram r { s with answers := rest }
  iterate 2 exact ⟨rfl, rfl⟩
  · obtain ⟨-, -, -, hkept⟩ := exec_keeps hx
    simpa using hkept

/-! ## The checks of an access -/

section
variable {addr : Word} {sz : Size} {s : State}

theorem inBounds_iff : s.inBounds addr sz.bytes = true ↔ addr.toNat + sz.bytes ≤ s.options.memSize := by
  have : sz.bytes ≠ 0 := by cases sz <;> decide
  simp [State.inBounds, this]

theorem misalignedAt_iff :
    s.misalignedAt addr sz = true ↔ s.options.misaligned = .fault ∧ sz ≠ .B ∧ addr.toNat % 2 = 1 := by
  have hsz : 1 < sz.bytes ↔ sz ≠ .B := by cases sz <;> decide
  simp [State.misalignedAt, hsz, BitVec.getLsbD, Nat.testBit_zero, and_assoc]

theorem accessible_iff :
    s.accessible addr sz ↔ addr.toNat + sz.bytes ≤ s.options.memSize ∧
      ¬ (s.options.misaligned = .fault ∧ sz ≠ .B ∧ addr.toNat % 2 = 1) := by
  rw [State.accessible, inBounds_iff, ← misalignedAt_iff, Bool.not_eq_true]

/-- A check that fails is the outcome of the read and of every write. -/
theorem memory_of_check {e : Stop} (h : checkAccess addr sz s = .error e) :
    memRead addr sz s = .error e ∧ ∀ v, memWrite addr sz v s = .error e :=
  ⟨bind_of_error h _, fun _ => bind_of_error h _⟩

theorem checkAccess_outOfBounds (h : s.options.memSize < addr.toNat + sz.bytes) :
    checkAccess addr sz s = .error (.raise .addressOutOfBounds) := by
  have hb : s.inBounds addr sz.bytes = false := Bool.eq_false_iff.2 (mt inBounds_iff.1 (Nat.not_le.2 h))
  simp [checkAccess, hb]

theorem checkAccess_misaligned (h : addr.toNat + sz.bytes ≤ s.options.memSize)
    (hm : s.options.misaligned = .fault ∧ sz ≠ .B ∧ addr.toNat % 2 = 1) :
    checkAccess addr sz s = .error (.raise .misalignedAccess) := by
  simp [checkAccess, inBounds_iff.2 h, misalignedAt_iff.2 hm]

/-- A stored value is read back at its address and size (R62, R63). -/
theorem memRead_storeAt (h : s.accessible addr sz) (v : BitVec sz.bits) :
    memRead addr sz (s.storeAt addr sz v) = .ok v :=
  memRead_eq_ok.2 ⟨h, by rw [readBytes_storeAt, valueOf_bytesOf]⟩

end

/-- Settles O20: an access either passes its checks, and a write is then the recorded store of its bytes, or it stops with
the fault of the check that fails. -/
theorem memoryAccess : Obligations.MemoryAccess := by
  intro addr sz s
  refine ⟨fun hb hm => ?succeeds, fun hb => memory_of_check (checkAccess_outOfBounds hb),
    fun hb hp hsz hodd => memory_of_check (checkAccess_misaligned hb ⟨hp, hsz, hodd⟩)⟩
  have ha : s.accessible addr sz := accessible_iff.2 ⟨hb, hm⟩
  refine ⟨memRead_eq_ok.2 ⟨ha, rfl⟩, fun v => ⟨s.storeAt addr sz v, memWrite_eq_ok.2 ⟨ha, rfl⟩, readBytes_storeAt s addr sz v,
    memRead_storeAt ha v, fun b hout => readByte_storeAt ?_, fun hwf => wf_writeBytes hwf _ _, rfl, rfl⟩⟩
  unfold within at hout
  omega

/-! ## Byte order -/

/-- A part of a byte string is the string of that part. -/
theorem take_drop_readBytes (m : Memory) (a : Nat) {n k len : Nat} (h : k + len ≤ n) :
    ((m.readBytes a n).drop k).take len = m.readBytes (a + k) len := by
  refine List.ext_getElem (by simp; omega) fun i _ _ => ?_
  rw [List.getElem_take, List.getElem_drop, readBytes_getElem, readBytes_getElem, Nat.add_assoc]

section
variable {a b v : Word} {s t : State} {k : Nat} {sz : Size}

/-- The address of a byte of an accessible long does not wrap around in a memory of at most `2^32` bytes. -/
theorem toNat_add_of_accessible (hsize : s.options.memSize ≤ 2 ^ 32) (ha : s.accessible a .L) (hk : k < 4) :
    (a + BitVec.ofNat 32 k).toNat = a.toNat + k := by
  have hb : a.toNat + 4 ≤ s.options.memSize := (accessible_iff.1 ha).1
  rw [BitVec.toNat_add, BitVec.toNat_ofNat]
  omega

/-- A part of an accessible long at an even offset, or of one byte, is accessible. -/
theorem accessible_part (hsize : s.options.memSize ≤ 2 ^ 32) (ha : s.accessible a .L) (hk : k < 4)
    (hfits : k + sz.bytes ≤ 4) (heven : sz = .B ∨ k % 2 = 0) : s.accessible (a + BitVec.ofNat 32 k) sz := by
  obtain ⟨(hb : a.toNat + 4 ≤ s.options.memSize), hm⟩ := accessible_iff.1 ha
  rw [accessible_iff, toNat_add_of_accessible hsize ha hk]
  refine ⟨by omega, fun ⟨hp, hsz, hodd⟩ => hm ⟨hp, nofun, ?_⟩⟩
  have := heven.resolve_left hsz
  omega

/-- A read inside a long that was written sees its bytes of the value. -/
theorem memRead_part (hsize : s.options.memSize ≤ 2 ^ 32) (h : memWrite a .L v s = .ok t)
    (haddr : b = a + BitVec.ofNat 32 k) (hk : k < 4) (hfits : k + sz.bytes ≤ 4) (heven : sz = .B ∨ k % 2 = 0) :
    memRead b sz t = .ok (valueOf sz (((bytesOf .L v).drop k).take sz.bytes)) := by
  subst haddr
  obtain ⟨ha, rfl⟩ := memWrite_eq_ok.1 h
  refine memRead_eq_ok.2 ⟨accessible_part hsize ha hk hfits heven, ?_⟩
  rw [toNat_add_of_accessible hsize ha hk, ← readBytes_storeAt s a .L v, take_drop_readBytes _ _ hfits]

end

theorem valueOf_highWord (v : Word) : valueOf .W [v.extractLsb' 24 8, v.extractLsb' 16 8] = v.extractLsb' 16 16 :=
  BitVec.extractLsb'_append_extractLsb'_eq_extractLsb' rfl

theorem valueOf_lowWord (v : Word) : valueOf .W [v.extractLsb' 8 8, v.extractLsb' 0 8] = v.extractLsb' 0 16 :=
  BitVec.extractLsb'_append_extractLsb'_eq_extractLsb' rfl

/-- Settles O21: the long is stored as its bytes from the most significant down, and each read sees a part of them. -/
theorem bigEndian : Obligations.BigEndian := by
  intro a v s t hsize h
  have hstart : a = a + BitVec.ofNat 32 0 := (BitVec.add_zero a).symm
  have hbytes : t.mem.readBytes a.toNat 4 = bytesOf .L v := by
    obtain ⟨-, rfl⟩ := memWrite_eq_ok.1 h
    exact readBytes_storeAt s a .L v
  refine ⟨hbytes, ?byteHigh, ?wordHigh, ?wordLow, ?byteLow⟩
  case byteHigh => exact memRead_part hsize h hstart (by decide) (by decide) (.inl rfl)
  case wordHigh =>
    exact (memRead_part hsize h hstart (by decide) (by decide) (.inr rfl)).trans (congrArg _ (valueOf_highWord v))
  case wordLow =>
    exact (memRead_part (k := 2) hsize h rfl (by decide) (by decide) (.inr rfl)).trans (congrArg _ (valueOf_lowWord v))
  case byteLow => exact memRead_part (k := 3) hsize h rfl (by decide) (by decide) (.inl rfl)

end Sys2Proof.Machine
end

section
/-! SUPPORT. The entry of an instruction and the instruction of an entry (R90, R92 to R95). -/

namespace Sys2Proof

/-! ## From the instruction to its entry and back -/

open Laws.RoundTrip in
/-- Each constructor has its round trip in `Laws.RoundTrip`. -/
theorem decode_encode : ∀ i : Instr, decode (encode i) = .ok i
  | .moveB x y => moveB x y | .moveW x y => moveW x y | .moveL x y => moveL x y | .moveqL x y => moveqL x y
  | .addB x y => addB x y | .addW x y => addW x y | .addL x y => addL x y | .addqB x y => addqB x y
  | .addqW x y => addqW x y | .addqL x y => addqL x y | .addaW x y => addaW x y | .addaL x y => addaL x y
  | .subB x y => subB x y | .subW x y => subW x y | .subL x y => subL x y | .subqB x y => subqB x y
  | .subqW x y => subqW x y | .subqL x y => subqL x y | .subaW x y => subaW x y | .subaL x y => subaL x y
  | .cmpB x y => cmpB x y | .cmpW x y => cmpW x y | .cmpL x y => cmpL x y | .tstB x => tstB x | .tstW x => tstW x
  | .tstL x => tstL x | .mulsW x y => mulsW x y | .muluW x y => muluW x y | .divsW x y => divsW x y
  | .divuW x y => divuW x y | .andB x y => andB x y | .andW x y => andW x y | .andL x y => andL x y
  | .orB x y => orB x y | .orW x y => orW x y | .orL x y => orL x y | .eorB x y => eorB x y | .eorW x y => eorW x y
  | .eorL x y => eorL x y | .notB x => notB x | .notW x => notW x | .notL x => notL x | .aslB x => aslB x
  | .aslW x => aslW x | .aslL x => aslL x | .asrB x => asrB x | .asrW x => asrW x | .asrL x => asrL x
  | .lslB x => lslB x | .lslW x => lslW x | .lslL x => lslL x | .lsrB x => lsrB x | .lsrW x => lsrW x
  | .lsrL x => lsrL x | .rolB x => rolB x | .rolW x => rolW x | .rolL x => rolL x | .rorB x => rorB x
  | .rorW x => rorW x | .rorL x => rorL x | .negB x => negB x | .negW x => negW x | .negL x => negL x
  | .extW x => extW x | .extL x => extL x | .swapW x => swapW x | .btstL x y => btstL x y | .btstB x y => btstB x y
  | .bclrL x y => bclrL x y | .bclrB x y => bclrB x y | .bsetL x y => bsetL x y | .bsetB x y => bsetB x y
  | .bchgL x y => bchgL x y | .bchgB x y => bchgB x y | .bt x => bt x | .bf x => bf x | .bhi x => bhi x
  | .bls x => bls x | .bcc x => bcc x | .bcs x => bcs x | .bne x => bne x | .beq x => beq x | .bvc x => bvc x
  | .bvs x => bvs x | .bpl x => bpl x | .bmi x => bmi x | .bge x => bge x | .blt x => blt x | .bgt x => bgt x
  | .ble x => ble x | .bra x => bra x | .bsr x => bsr x | .jsr x => jsr x | .rts => rts | .dbtW x y => dbtW x y
  | .dbfW x y => dbfW x y | .dbhiW x y => dbhiW x y | .dblsW x y => dblsW x y | .dbccW x y => dbccW x y
  | .dbcsW x y => dbcsW x y | .dbneW x y => dbneW x y | .dbeqW x y => dbeqW x y | .dbvcW x y => dbvcW x y
  | .dbvsW x y => dbvsW x y | .dbplW x y => dbplW x y | .dbmiW x y => dbmiW x y | .dbgeW x y => dbgeW x y
  | .dbltW x y => dbltW x y | .dbgtW x y => dbgtW x y | .dbleW x y => dbleW x y | .stB x => stB x | .sfB x => sfB x
  | .shiB x => shiB x | .slsB x => slsB x | .sccB x => sccB x | .scsB x => scsB x | .sneB x => sneB x
  | .seqB x => seqB x | .svcB x => svcB x | .svsB x => svsB x | .splB x => splB x | .smiB x => smiB x
  | .sgeB x => sgeB x | .sltB x => sltB x | .sgtB x => sgtB x | .sleB x => sleB x | .leaL x y => leaL x y
  | .peaL x => peaL x | .link x y => link x y | .unlk x => unlk x | .movemWStore x y => movemWStore x y
  | .movemLStore x y => movemLStore x y | .movemWLoad x y => movemWLoad x y | .movemLLoad x y => movemLLoad x y
  | .trap x => trap x

/-- Settles O2: each constructor has its round trip, with every operand. -/
theorem decodeEncode : Obligations.DecodeEncode := decode_encode

/-- Settles O1: the first ten entries are those the encoder gives; the other five select no opcode. -/
theorem descriptorWordsDecode : Obligations.DescriptorWordsDecode :=
  ⟨decode_encode (.moveW ..), decode_encode (.moveqL ..), decode_encode (.divsW ..), decode_encode (.aslB (.counted ..)),
    decode_encode (.lsrW (.memory _)), decode_encode (.btstL ..), decode_encode (.beq _), decode_encode (.dbfW ..),
    decode_encode (.movemLStore ..), decode_encode (.trap _), rfl, rfl, rfl, rfl, rfl⟩

/-! ## From the entry to its instruction and back -/

/-- The number of a condition (R95). -/
def Cond.code : Cond → Nat
  | .t => 0 | .f => 1 | .hi => 2 | .ls => 3 | .cc => 4 | .cs => 5 | .ne => 6 | .eq => 7
  | .vc => 8 | .vs => 9 | .pl => 10 | .mi => 11 | .ge => 12 | .lt => 13 | .gt => 14 | .le => 15

theorem condOf_eq_some {cc : Nat} {k : Cond} (h : condOf cc = some k) : cc = k.code := by
  unfold condOf at h
  split at h <;> cases h <;> rfl

/-- The descriptor with an op tag, a size code and a condition field, bits 5:4 zero (R92). -/
def descriptorOf (tag sz cc : Nat) : BitVec 16 := BitVec.ofNat 16 (tag * 256 + sz * 64 + cc)

/-- The fields and the zero bits are all of a descriptor. -/
theorem descriptorOf_fields {w : BitVec 16} (h : zeroBits w = 0) :
    descriptorOf (opTag w) (sizeCode w) (condCode w) = w := by
  unfold zeroBits at h
  apply BitVec.eq_of_toNat_eq
  simp only [descriptorOf, opTag, sizeCode, condCode, BitVec.toNat_ofNat]
  omega

/-- Whatever operands an opcode takes, the instruction it makes of them is encoded with the descriptor `w` and them. -/
def Opcode.EncodesAt (o : Opcode) (w : BitVec 16) : Prop :=
  match o with
  | .bare i => encode i = ⟨w, [], none⟩
  | .one f => ∀ x, encode (f x) = ⟨w, [x], none⟩
  | .two f => ∀ x y, encode (f x y) = ⟨w, [x, y], none⟩
  | .shift f => (∀ x, encode (f (.memory x)) = ⟨w, [x], none⟩) ∧ ∀ x y, encode (f (.counted x y)) = ⟨w, [x, y], none⟩
  | .listFirst f => ∀ l x, encode (f l x) = ⟨w, [x], some l⟩
  | .listLast f => ∀ x l, encode (f x l) = ⟨w, [x], some l⟩

theorem encode_withOperands {o : Opcode} {w : BitVec 16} (ho : o.EncodesAt w) {ops : List Operand}
    {l : Option (BitVec 16)} {i : Instr} (h : o.withOperands ops l = some i) : encode i = ⟨w, ops, l⟩ := by
  unfold Opcode.withOperands at h
  split at h <;> cases h
  case h_1 => exact ho
  case h_2 => exact ho _
  case h_3 => exact ho _ _
  case h_4 => exact ho.1 _
  case h_5 => exact ho.2 _ _
  case h_6 => exact ho _ _
  case h_7 => exact ho _ _

section
variable {tag sz cc : Nat} {o : Opcode}

/-- An opcode found among the sizes of an op tag encodes at its descriptor when the one at each size does. -/
theorem bySize_encodesAt {b w l : Option Opcode} (h : bySize b w l sz cc = some o)
    (hb : b = some o → o.EncodesAt (descriptorOf tag 0 0)) (hw : w = some o → o.EncodesAt (descriptorOf tag 1 0))
    (hl : l = some o → o.EncodesAt (descriptorOf tag 2 0)) : o.EncodesAt (descriptorOf tag sz cc) := by
  unfold bySize at h
  split at h
  · exact hb h
  · exact hw h
  · exact hl h
  · cases h

theorem unsized_encodesAt {o' : Opcode} (h : unsized o' sz cc = some o) (ho : o'.EncodesAt (descriptorOf tag 3 0)) :
    o.EncodesAt (descriptorOf tag sz cc) := by
  unfold unsized at h
  split at h <;> cases h
  exact ho

theorem byCond_encodesAt {code : Nat} {f : Cond → Opcode} (h : byCond code f sz cc = some o)
    (hf : ∀ k : Cond, (f k).EncodesAt (descriptorOf tag code k.code)) : o.EncodesAt (descriptorOf tag sz cc) := by
  unfold byCond at h
  split at h
  · next hsz =>
    obtain ⟨k, hk, rfl⟩ := Option.map_eq_some_iff.1 h
    rw [hsz, condOf_eq_some hk]
    exact hf k
  · cases h

/-- Each op tag selects only opcodes whose instructions are encoded with the fields that selected them (R93).
Case `h_n` is op tag `n`; what is left to the last line are the op tags of two-operand instructions and MOVEM. -/
theorem opcodeOf_encodesAt (h : opcodeOf tag sz cc = some o) : o.EncodesAt (descriptorOf tag sz cc) := by
  unfold opcodeOf at h
  split at h
  case h_32 | h_38 => exact byCond_encodesAt h fun k => by cases k <;> exact fun _ => rfl
  case h_37 => exact byCond_encodesAt h fun k => by cases k <;> exact fun _ _ => rfl
  case h_36 => exact unsized_encodesAt h rfl
  case h_33 | h_34 | h_35 | h_42 | h_45 => exact unsized_encodesAt h fun _ => rfl
  case h_41 => exact unsized_encodesAt h fun _ _ => rfl
  case h_46 => cases h
  case h_19 | h_20 | h_21 | h_22 | h_23 | h_24 =>
    apply bySize_encodesAt h <;> rintro ⟨⟩ <;> exact ⟨fun _ => rfl, fun _ _ => rfl⟩
  case h_10 | h_18 | h_25 | h_26 | h_27 | h_40 => apply bySize_encodesAt h <;> rintro ⟨⟩ <;> exact fun _ => rfl
  all_goals apply bySize_encodesAt h <;> rintro ⟨⟩ <;> exact fun _ _ => rfl

end

theorem opcode_encodesAt {w : BitVec 16} {o : Opcode} (h : opcode w = some o) : o.EncodesAt w := by
  unfold opcode at h
  split at h
  · next hz => exact descriptorOf_fields hz ▸ opcodeOf_encodesAt h
  · cases h

theorem decode_eq_ok {e : Entry} {i : Instr} (h : decode e = .ok i) :
    ∃ o, opcode e.descriptor = some o ∧ o.withOperands e.operands e.reglist = some i := by
  unfold decode at h
  split at h
  · cases h
  · next o ho =>
    split at h <;> cases h
    exact ⟨o, ho, ‹_›⟩

/-- Settles O3: the opcode a descriptor selects determines the descriptor, and its operands are the entry's. -/
theorem encodeDecode : Obligations.EncodeDecode := by
  intro e i h
  obtain ⟨o, ho, hi⟩ := decode_eq_ok h
  exact encode_withOperands (opcode_encodesAt ho) hi

/-! ## Admitted forms -/

namespace Machine

/-- Settles O4: an admitted form runs to its end, where only TRAP sets a status, or takes a fault. -/
theorem admittedFormsExecute : Obligations.AdmittedFormsExecute := by
  intro i s hw
  rcases admitted_exec hw s with ⟨t, hb, hx⟩ | ⟨f, -, hx⟩
  · refine ⟨t, hx, ?_⟩
    rcases bodyOf_status hb with hst | ⟨v, -, ⟨hst, -⟩ | ⟨hst, -⟩⟩ <;> simp [hst]
  · exact ⟨_, hx, .inr (.inr (.inr rfl))⟩

end Machine

end Sys2Proof
end

section
/-! SUPPORT. MOVEM (R102, R274, R279, R280): the register list, the slots the registers take in memory, and what the loops
over them store and load. -/

namespace Sys2Proof.Machine

/-! ## The register list (R102) -/

/-- The bit of a register list that stands for a register. -/
def listBit : Reg → Nat
  | .data n => n.val
  | .addr n => 8 + n.val

theorem listBit_injective {r r' : Reg} (h : listBit r = listBit r') : r = r' := by
  cases r <;> cases r' <;> simp only [listBit, Reg.data.injEq, Reg.addr.injEq, reduceCtorEq, Fin.ext_iff] at h ⊢ <;> omega

/-- The register a bit stands for. -/
def regOfBit (i : Fin 16) : Reg :=
  if h : i.val < 8 then .data ⟨i.val, h⟩ else .addr ⟨i.val - 8, by omega⟩

theorem listBit_regOfBit (i : Fin 16) : listBit (regOfBit i) = i.val := by
  unfold regOfBit
  split <;> simp only [listBit]
  omega

theorem listedRegs_eq (l : BitVec 16) :
    listedRegs l = (List.finRange 16).filterMap fun i => if l.getLsbD i.val then some (regOfBit i) else none := rfl

/-- The listed registers are those whose bits are set. -/
theorem mem_listedRegs {l : BitVec 16} {r : Reg} : r ∈ listedRegs l ↔ l.getLsbD (listBit r) = true := by
  have hlt : listBit r < 16 := by cases r <;> simp only [listBit] <;> omega
  simp only [listedRegs_eq, List.mem_filterMap, List.mem_finRange, true_and, Option.ite_none_right_eq_some,
    Option.some.injEq]
  constructor
  · rintro ⟨i, hi, rfl⟩
    rwa [listBit_regOfBit]
  · exact fun h => ⟨⟨listBit r, hlt⟩, h, listBit_injective (listBit_regOfBit _)⟩

/-- The listed registers stand in the order of their bits. -/
theorem listedRegs_ordered (l : BitVec 16) : (listedRegs l).Pairwise fun r r' => listBit r < listBit r' := by
  rw [listedRegs_eq, List.pairwise_filterMap]
  refine (List.pairwise_lt_finRange 16).imp fun {i j} hij r hr r' hr' => ?_
  simp only [Option.ite_none_right_eq_some, Option.some.injEq] at hr hr'
  obtain ⟨-, rfl⟩ := hr
  obtain ⟨-, rfl⟩ := hr'
  rw [listBit_regOfBit, listBit_regOfBit]
  exact hij

theorem listedRegs_nodup (l : BitVec 16) : (listedRegs l).Nodup :=
  (listedRegs_ordered l).imp fun hlt heq => absurd (congrArg listBit heq) (Nat.ne_of_lt hlt)

theorem listedRegs_length (l : BitVec 16) : (listedRegs l).length ≤ 16 :=
  (List.length_filterMap_le ..).trans_eq List.length_finRange

/-! ## The slots -/

/-- The registers of a list with the addresses of their slots, ascending from a base (R279, R280). -/
def slots (sz : Size) (base : Word) (rs : List Reg) : List (Word × Reg) :=
  rs.mapIdx fun j r => (base + BitVec.ofNat 32 (sz.bytes * j), r)

section
variable {sz : Size} {base : Word} {rs : List Reg}

@[simp] theorem slots_nil : slots sz base [] = [] := rfl

/-- One address past `j + 1` slots is the one past `j` slots after the first. -/
theorem slot_succ (sz : Size) (base : Word) (j : Nat) :
    base + BitVec.ofNat 32 (sz.bytes * (j + 1)) = base + BitVec.ofNat 32 sz.bytes + BitVec.ofNat 32 (sz.bytes * j) := by
  rw [Nat.mul_succ, Nat.add_comm, BitVec.ofNat_add, BitVec.add_assoc]

@[simp] theorem slots_cons (r : Reg) :
    slots sz base (r :: rs) = (base, r) :: slots sz (base + BitVec.ofNat 32 sz.bytes) rs := by
  simp only [slots, List.mapIdx_cons, slot_succ, Nat.mul_zero, BitVec.add_zero]

@[simp] theorem slots_regs : (slots sz base rs).map Prod.snd = rs := by
  induction rs generalizing base with
  | nil => rfl
  | cons r rs ih => rw [slots_cons, List.map_cons, ih]

theorem mem_slots_of_getElem? {j : Nat} {r : Reg} (h : rs[j]? = some r) :
    (base + BitVec.ofNat 32 (sz.bytes * j), r) ∈ slots sz base rs := by
  obtain ⟨hj, rfl⟩ := List.getElem?_eq_some_iff.1 h
  exact List.mem_mapIdx.2 ⟨j, hj, rfl⟩

theorem exists_slot_iff {P : Word → Prop} :
    (∃ p ∈ slots sz base rs, P p.1) ↔ ∃ j < rs.length, P (base + BitVec.ofNat 32 (sz.bytes * j)) := by
  simp only [slots, List.mem_mapIdx]
  constructor
  · rintro ⟨_, ⟨j, hj, rfl⟩, h⟩; exact ⟨j, hj, h⟩
  · rintro ⟨j, hj, h⟩; exact ⟨_, ⟨j, hj, rfl⟩, h⟩

/-- Two slots share no byte. -/
def Apart (sz : Size) (p q : Word × Reg) : Prop := ∀ b, within p.1 sz.bytes b → ¬ within q.1 sz.bytes b

theorem apart_symm {p q : Word × Reg} (h : Apart sz p q) : Apart sz q p := fun b hb hb' => h b hb' hb

/-- The slots of at most sixteen registers do not overlap, wherever they start. -/
theorem slots_apart (h : rs.length ≤ 16) : (slots sz base rs).Pairwise (Apart sz) := by
  rw [List.pairwise_iff_getElem]
  intro i j hi hj hij b hb hb'
  simp only [slots, List.length_mapIdx] at hi hj
  simp only [slots, List.getElem_mapIdx, within, BitVec.toNat_add, BitVec.toNat_ofNat] at hb hb'
  cases sz <;> simp only [Size.bytes] at hb hb' <;> omega

end

/-! ## The faults of an access -/

section
variable {addr : Word} {sz : Size} {s : State}

theorem accessFault_eq_none_iff : s.accessFault addr sz = none ↔ s.accessible addr sz := by
  unfold State.accessFault State.accessible
  cases s.inBounds addr sz.bytes <;> cases s.misalignedAt addr sz <;> simp

theorem accessFault_of_check {e : Stop} (h : checkAccess addr sz s = .error e) :
    ∃ f, s.accessFault addr sz = some f ∧ e = .raise f := by
  unfold State.accessFault
  rcases checkAccess_error h with ⟨hb, rfl⟩ | ⟨hb, hm, rfl⟩ <;> simp [*]

theorem accessFault_congr {t : State} (h : t.options = s.options) : t.accessFault addr sz = s.accessFault addr sz := by
  unfold State.accessFault State.inBounds State.misalignedAt
  rw [h]

theorem accessible_congr {t : State} (h : t.options = s.options) : t.accessible addr sz ↔ s.accessible addr sz := by
  rw [← accessFault_eq_none_iff, accessFault_congr h, accessFault_eq_none_iff]

theorem memWrite_eq_error {v : BitVec sz.bits} {e : Stop} (h : memWrite addr sz v s = .error e) :
    ∃ f, s.accessFault addr sz = some f ∧ e = .raise f := by
  unfold memWrite at h
  cases hc : checkAccess addr sz s with
  | ok u => rw [hc] at h; cases h
  | error e' => rw [hc] at h; cases h; exact accessFault_of_check hc

theorem memRead_eq_error {e : Stop} (h : memRead addr sz s = .error e) :
    ∃ f, s.accessFault addr sz = some f ∧ e = .raise f := by
  unfold memRead at h
  cases hc : checkAccess addr sz s with
  | ok u => rw [hc] at h; cases h
  | error e' => rw [hc] at h; cases h; exact accessFault_of_check hc

end

/-- A sequence stops in its first part or in its second. -/
theorem bind_eq_error {α β : Type} {x : Res α} {f : α → Res β} {e : Stop} :
    x >>= f = .error e ↔ x = .error e ∨ ∃ a, x = .ok a ∧ f a = .error e := by
  cases x <;> simp [bind, Except.bind]

theorem error_of_bind_ok {α β : Type} {x : Res α} {g : α → β} {e : Stop} (h : (x >>= fun a => .ok (g a)) = .error e) :
    x = .error e := by
  rcases bind_eq_error.1 h with h | ⟨a, -, h⟩
  · exact h
  · cases h

/-! ## Storing (R279) -/

/-- Store registers at their slots, in the order of the list. -/
def storeSlots (sz : Size) : List (Word × Reg) → State → Res State
  | [], s => .ok s
  | p :: ps, s => do
    let t ← memWrite p.1 sz ((s.x p.2).setWidth sz.bits) s
    storeSlots sz ps t

theorem storeUp_eq (sz : Size) (rs : List Reg) (addr : Word) (s : State) :
    storeUp sz rs addr s = storeSlots sz (slots sz addr rs) s := by
  induction rs generalizing addr s with
  | nil => rfl
  | cons r rs ih => simp only [storeUp, slots_cons, storeSlots, ih]

theorem storeSlots_append (sz : Size) (ps qs : List (Word × Reg)) (s : State) :
    storeSlots sz (ps ++ qs) s = storeSlots sz ps s >>= storeSlots sz qs := by
  induction ps generalizing s with
  | nil => rfl
  | cons p ps ih => simp only [List.cons_append, storeSlots, ih, bind_assoc]

theorem storeDown_append (sz : Size) (rs rs' : List Reg) (addr : Word) (s : State) :
    storeDown sz (rs ++ rs') addr s = storeDown sz rs addr s >>= fun p => storeDown sz rs' p.1 p.2 := by
  induction rs generalizing addr s with
  | nil => rfl
  | cons r rs ih => simp only [List.cons_append, storeDown, ih, bind_assoc]

/-- The descending loop over the reversed list stores at the same slots, the highest first, and ends at the base. -/
theorem storeDown_reverse (sz : Size) (rs : List Reg) (base : Word) (s : State) :
    storeDown sz rs.reverse (base + BitVec.ofNat 32 (sz.bytes * rs.length)) s
      = storeSlots sz (slots sz base rs).reverse s >>= fun t => .ok (base, t) := by
  induction rs generalizing base s with
  | nil => simp [storeDown, storeSlots, bind, Except.bind]
  | cons r rs ih =>
    rw [List.length_cons, slot_succ, List.reverse_cons, storeDown_append, ih, slots_cons, List.reverse_cons,
      storeSlots_append]
    cases storeSlots sz (slots sz (base + BitVec.ofNat 32 sz.bytes) rs).reverse s with
    | error e => rfl
    | ok u =>
      simp only [storeDown, storeSlots, bind, Except.bind, BitVec.add_sub_cancel]
      cases memWrite base sz ((u.x r).setWidth sz.bits) u <;> rfl

/-- `t` is `s` with the registers of the slots `ps` stored at them, every slot being accessible. -/
structure Stored (sz : Size) (ps : List (Word × Reg)) (s t : State) : Prop where
  accessible : ∀ p ∈ ps, s.accessible p.1 sz
  holds      : ∀ p ∈ ps, t.mem.readBytes p.1.toNat sz.bytes = bytesOf sz ((s.x p.2).setWidth sz.bits)
  rest       : OnlyChanges s t [] fun b => ∃ p ∈ ps, within p.1 sz.bytes b
  falls      : t.pc = s.pc ∧ t.callStack = s.callStack

theorem stored_of_perm {sz : Size} {ps qs : List (Word × Reg)} {s t : State} (hp : ps.Perm qs) (h : Stored sz ps s t) :
    Stored sz qs s t where
  accessible p hq := h.accessible p (hp.mem_iff.2 hq)
  holds p hq := h.holds p (hp.mem_iff.2 hq)
  rest := onlyChanges_mono h.rest (fun _ => id) fun _ ⟨p, hq, hb⟩ => ⟨p, hp.mem_iff.1 hq, hb⟩
  falls := h.falls

theorem storeSlots_ok {sz : Size} {ps : List (Word × Reg)} {s t : State} (hap : ps.Pairwise (Apart sz))
    (h : storeSlots sz ps s = .ok t) : Stored sz ps s t := by
  induction ps generalizing s with
  | nil => cases h; exact ⟨nofun, nofun, onlyChanges_mono (onlyChanges_refl _) (fun _ => id) fun _ => False.elim, rfl, rfl⟩
  | cons p ps ih =>
    obtain ⟨hp, hps⟩ := List.pairwise_cons.1 hap
    obtain ⟨u, hu, h⟩ := bind_eq_ok.1 h
    obtain ⟨ha, rfl⟩ := memWrite_eq_ok.1 hu
    obtain ⟨hacc, hholds, hrest, hfalls⟩ := ih hps h
    have hfirst : t.mem.readBytes p.1.toNat sz.bytes = bytesOf sz ((s.x p.2).setWidth sz.bits) := by
      rw [← readBytes_storeAt s p.1 sz]
      exact readBytes_congr fun b hlo hhi => hrest.bytes b fun ⟨q, hq, hb⟩ => hp q hq b ⟨hlo, hhi⟩ hb
    refine ⟨List.forall_mem_cons.2 ⟨ha, hacc⟩, List.forall_mem_cons.2 ⟨hfirst, fun q hq => ?_⟩, ?_, hfalls⟩
    · rw [hholds q hq, storeAt_x]
    · refine onlyChanges_mono (onlyChanges_trans (onlyChanges_storeAt ..) hrest) (by simp) fun b hb => ?_
      simpa using hb

theorem storeSlots_error {sz : Size} {ps : List (Word × Reg)} {s : State} {e : Stop}
    (h : storeSlots sz ps s = .error e) : ∃ p ∈ ps, ∃ f, s.accessFault p.1 sz = some f ∧ e = .raise f := by
  induction ps generalizing s with
  | nil => cases h
  | cons p ps ih =>
    rcases bind_eq_error.1 h with h | ⟨u, hu, h⟩
    · exact ⟨p, List.mem_cons_self, memWrite_eq_error h⟩
    · obtain ⟨-, rfl⟩ := memWrite_eq_ok.1 hu
      obtain ⟨q, hq, hf⟩ := ih h
      exact ⟨q, List.mem_cons_of_mem p hq, hf⟩

/-! ## Loading (R280) -/

/-- `t` is `s` with each register of the slots `ps` loaded from its slot, every slot being accessible. -/
structure Loaded (sz : Size) (ps : List (Word × Reg)) (s t : State) : Prop where
  accessible : ∀ p ∈ ps, s.accessible p.1 sz
  holds      : ∀ p ∈ ps, t.x p.2 = mergeReg p.2 sz (s.x p.2) (valueOf sz (s.mem.readBytes p.1.toNat sz.bytes))
  rest       : OnlyChanges s t (ps.map Prod.snd) noByte
  falls      : t.pc = s.pc ∧ t.callStack = s.callStack

theorem byteOnAddr_of_ne {sz : Size} (h : sz ≠ .B) (r : Reg) : byteOnAddr r sz = false := by
  cases sz with
  | B => exact absurd rfl h
  | W | L => cases r <;> rfl

theorem loadUp_ok {sz : Size} {rs : List Reg} {addr : Word} {s : State} {p : Word × State} (hnd : rs.Nodup)
    (h : loadUp sz rs addr s = .ok p) :
    p.1 = addr + BitVec.ofNat 32 (sz.bytes * rs.length) ∧ Loaded sz (slots sz addr rs) s p.2 := by
  induction rs generalizing addr s with
  | nil => cases h; exact ⟨by simp, nofun, nofun, onlyChanges_refl s, rfl, rfl⟩
  | cons r rs ih =>
    obtain ⟨hr, hrs⟩ := List.nodup_cons.1 hnd
    obtain ⟨v, hv, h⟩ := bind_eq_ok.1 h
    obtain ⟨ha, rfl⟩ := memRead_eq_ok.1 hv
    obtain ⟨u, hu, h⟩ := bind_eq_ok.1 h
    obtain ⟨-, rfl⟩ := regWrite_eq_ok.1 hu
    obtain ⟨hend, hacc, hholds, hrest, hpc, hcs⟩ := ih hrs h
    rw [slots_cons]
    refine ⟨hend.trans (slot_succ ..).symm, List.forall_mem_cons.2 ⟨ha, fun q hq => ?_⟩,
      List.forall_mem_cons.2 ⟨?_, fun q hq => ?_⟩, ?_, hpc.trans (putReg_pc ..), hcs.trans (putReg_callStack ..)⟩
    · exact (accessible_congr (putReg_options ..)).1 (hacc q hq)
    · exact (hrest.regs r (by rwa [slots_regs])).trans (by simp)
    · have hmem : q.2 ∈ rs := by simpa using List.mem_map_of_mem (f := Prod.snd) hq
      rw [hholds q hq, putReg_x, if_neg fun he : q.2 = r => hr (he ▸ hmem), putReg_mem]
    · exact onlyChanges_mono (onlyChanges_trans (onlyChanges_putReg ..) hrest) (by simp) (by simp)

theorem loadUp_error {sz : Size} {rs : List Reg} {addr : Word} {s : State} {e : Stop} (hsz : sz ≠ .B)
    (h : loadUp sz rs addr s = .error e) :
    ∃ p ∈ slots sz addr rs, ∃ f, s.accessFault p.1 sz = some f ∧ e = .raise f := by
  induction rs generalizing addr s with
  | nil => cases h
  | cons r rs ih =>
    rw [slots_cons]
    rcases bind_eq_error.1 h with h | ⟨v, -, h⟩
    · exact ⟨_, List.mem_cons_self, memRead_eq_error h⟩
    · rcases bind_eq_error.1 h with h | ⟨u, hu, h⟩
      · rw [regWrite, byteOnAddr_of_ne hsz] at h; cases h
      · obtain ⟨-, rfl⟩ := regWrite_eq_ok.1 hu
        obtain ⟨q, hq, f, hf, he⟩ := ih h
        exact ⟨q, List.mem_cons_of_mem _ hq, f, accessFault_congr (putReg_options ..) ▸ hf, he⟩

/-! ## The instructions -/

/-- The state with the address register an operand steps, where it steps one, set to `v` (R138, R139). -/
def State.stepTo (s : State) (op : Operand) (v : Word) : State :=
  match op with
  | .indirect n _ _ .pre | .indirect n _ _ .post => s.putReg (.addr n) v .L
  | _ => s

theorem onlyChanges_stepTo (s : State) (op : Operand) (v : Word) : OnlyChanges s (s.stepTo op v) op.steps noByte := by
  unfold State.stepTo
  split
  · exact onlyChanges_putReg ..
  · exact onlyChanges_putReg ..
  · exact onlyChanges_mono (onlyChanges_refl s) nofun fun _ => id

@[simp] theorem stepTo_mem (s : State) (op : Operand) (v : Word) : (s.stepTo op v).mem = s.mem := by
  unfold State.stepTo; split <;> simp

@[simp] theorem stepTo_pc (s : State) (op : Operand) (v : Word) : (s.stepTo op v).pc = s.pc := by
  unfold State.stepTo; split <;> simp

@[simp] theorem stepTo_callStack (s : State) (op : Operand) (v : Word) : (s.stepTo op v).callStack = s.callStack := by
  unfold State.stepTo; split <;> simp

/-- The lowest slot of MOVEM to memory: the effective address, or with `-(An)` the one as many slots below the old `An` as
there are listed registers (R279). -/
def StoresFrom (sz : Size) (l : BitVec 16) (op : Operand) (s : State) (base : Word) : Prop :=
  effAddr op s = .ok base ∨
    ∃ n, op = .indirect n 0 none .pre ∧ base = s.x (.addr n) - BitVec.ofNat 32 (sz.bytes * (listedRegs l).length)

/-- The lowest slot of MOVEM from memory: the effective address, or with `(An)+` the old `An` (R280). -/
def LoadsFrom (op : Operand) (s : State) (base : Word) : Prop :=
  effAddr op s = .ok base ∨ ∃ n, op = .indirect n 0 none .post ∧ base = s.x (.addr n)

section
variable {sz : Size} {l : BitVec 16} {op : Operand} {s : State} {base : Word}

theorem bodyOf_movemStore (h : sz ≠ .B) : bodyOf (Instr.movemStore sz l op) = movemStoreBody sz l op := by
  cases sz with
  | B => exact absurd rfl h
  | W | L => rfl

theorem bodyOf_movemLoad (h : sz ≠ .B) : bodyOf (Instr.movemLoad sz op l) = movemLoadBody sz op l := by
  cases sz with
  | B => exact absurd rfl h
  | W | L => rfl

theorem movemStore_forms (h : (Instr.movemStore sz l op).wellFormed = true) :
    op.isCtrl = true ∨ op.mode = .predec ∧ op.baseListed l = false := by
  cases sz <;> simpa [Instr.movemStore, Instr.wellFormed, Instr.shape, Shape.admitted] using h

theorem movemLoad_forms (h : (Instr.movemLoad sz op l).wellFormed = true) :
    op.isCtrl = true ∨ op.mode = .postinc ∧ op.baseListed l = false := by
  cases sz <;> simpa [Instr.movemLoad, Instr.wellFormed, Instr.shape, Shape.admitted] using h

/-- MOVEM to memory stores at the slots from the base up, or at the same slots from the last one down. -/
theorem movemStoreBody_eq (hw : (Instr.movemStore sz l op).wellFormed = true) (hb : StoresFrom sz l op s base) :
    ∃ ps, ps.Perm (slots sz base (listedRegs l)) ∧
      movemStoreBody sz l op s = storeSlots sz ps s >>= fun t => .ok (t.stepTo op base).advance := by
  rcases hb with hb | ⟨n, rfl, rfl⟩
  · refine ⟨_, .refl _, ?_⟩
    rw [← storeUp_eq]
    rcases movemStore_forms hw with hc | ⟨hm, -⟩
    · rcases isCtrl_cases hc with ⟨n, d, ix, rfl⟩ | ⟨addr, rfl⟩ <;> cases hb <;> rfl
    · obtain ⟨n, rfl⟩ := predec_cases hm; cases hb
  · refine ⟨_, List.reverse_perm _, ?_⟩
    have htop := storeDown_reverse sz (listedRegs l)
      (s.x (.addr n) - BitVec.ofNat 32 (sz.bytes * (listedRegs l).length)) s
    rw [BitVec.sub_add_cancel] at htop
    simp only [movemStoreBody, htop, bind_assoc]
    rfl

/-- MOVEM from memory loads from the slots from the base up. -/
theorem movemLoadBody_eq (hw : (Instr.movemLoad sz op l).wellFormed = true) (hb : LoadsFrom op s base) :
    movemLoadBody sz op l s = loadUp sz (listedRegs l) base s >>= fun p => .ok (p.2.stepTo op p.1).advance := by
  rcases hb with hb | ⟨n, rfl, rfl⟩
  · rcases movemLoad_forms hw with hc | ⟨hm, -⟩
    · rcases isCtrl_cases hc with ⟨n, d, ix, rfl⟩ | ⟨addr, rfl⟩ <;> cases hb <;> rfl
    · obtain ⟨n, rfl⟩ := postinc_cases hm; cases hb
  · rfl

/-- A register MOVEM from memory steps is not one it loads. -/
theorem movemLoad_steps_unlisted (hw : (Instr.movemLoad sz op l).wellFormed = true) {r : Reg}
    (hr : r ∈ listedRegs l) : r ∉ op.steps := by
  rcases movemLoad_forms hw with hc | ⟨hm, hl⟩
  · rcases isCtrl_cases hc with ⟨n, d, ix, rfl⟩ | ⟨addr, rfl⟩ <;> exact nofun
  · obtain ⟨n, rfl⟩ := postinc_cases hm
    intro hmem
    obtain rfl := List.mem_singleton.1 hmem
    exact absurd ((mem_listedRegs.1 hr).symm.trans hl) nofun

end

section
variable {sz : Size} {l : BitVec 16} {op : Operand} {s t : State} {base : Word} {e : Stop}

/-- What MOVEM to memory leaves where it runs to its end. -/
theorem movemStoreBody_ok (hw : (Instr.movemStore sz l op).wellFormed = true) (hb : StoresFrom sz l op s base)
    (h : movemStoreBody sz l op s = .ok t) :
    ∃ u, Stored sz (slots sz base (listedRegs l)) s u ∧ t = (u.stepTo op base).advance := by
  obtain ⟨ps, hperm, hbody⟩ := movemStoreBody_eq hw hb
  obtain ⟨u, hu, ht⟩ := bind_eq_ok.1 (hbody ▸ h)
  cases ht
  have hap : ps.Pairwise (Apart sz) := (hperm.pairwise_iff apart_symm).2 (slots_apart (listedRegs_length l))
  exact ⟨u, stored_of_perm hperm (storeSlots_ok hap hu), rfl⟩

theorem movemStoreBody_error (hw : (Instr.movemStore sz l op).wellFormed = true) (hb : StoresFrom sz l op s base)
    (h : movemStoreBody sz l op s = .error e) :
    ∃ p ∈ slots sz base (listedRegs l), ∃ f, s.accessFault p.1 sz = some f ∧ e = .raise f := by
  obtain ⟨ps, hperm, hbody⟩ := movemStoreBody_eq hw hb
  obtain ⟨p, hp, hf⟩ := storeSlots_error (error_of_bind_ok (hbody ▸ h))
  exact ⟨p, hperm.mem_iff.1 hp, hf⟩

/-- What MOVEM from memory leaves where it runs to its end. -/
theorem movemLoadBody_ok (hw : (Instr.movemLoad sz op l).wellFormed = true) (hb : LoadsFrom op s base)
    (h : movemLoadBody sz op l s = .ok t) :
    ∃ u, Loaded sz (slots sz base (listedRegs l)) s u ∧
      t = (u.stepTo op (base + BitVec.ofNat 32 (sz.bytes * (listedRegs l).length))).advance := by
  obtain ⟨⟨a, u⟩, hu, ht⟩ := bind_eq_ok.1 (movemLoadBody_eq hw hb ▸ h)
  cases ht
  obtain ⟨rfl, hloaded⟩ := loadUp_ok (listedRegs_nodup l) hu
  exact ⟨u, hloaded, rfl⟩

theorem movemLoadBody_error (hsz : sz ≠ .B) (hw : (Instr.movemLoad sz op l).wellFormed = true) (hb : LoadsFrom op s base)
    (h : movemLoadBody sz op l s = .error e) :
    ∃ p ∈ slots sz base (listedRegs l), ∃ f, s.accessFault p.1 sz = some f ∧ e = .raise f :=
  loadUp_error hsz (error_of_bind_ok (movemLoadBody_eq hw hb ▸ h))

end

/-- An admitted instruction whose pseudocode ends only when every slot is accessible, and stops only with the fault of a
slot: it completes when every slot is accessible, and takes the fault of a slot when one is not. -/
theorem exec_of_slots {i : Instr} {sz : Size} {base : Word} {rs : List Reg} {s : State} {Q : State → Prop}
    (hw : i.wellFormed = true)
    (hok : ∀ t, bodyOf i s = .ok t → (∀ p ∈ slots sz base rs, s.accessible p.1 sz) ∧ Q t)
    (herr : ∀ e, bodyOf i s = .error e →
      ∃ p ∈ slots sz base rs, ∃ f, s.accessFault p.1 sz = some f ∧ e = .raise f) :
    ((∀ j < rs.length, s.accessible (base + BitVec.ofNat 32 (sz.bytes * j)) sz) → ∃ t, exec i s = .next t ∧ Q t) ∧
      (∀ j < rs.length, s.accessFault (base + BitVec.ofNat 32 (sz.bytes * j)) sz ≠ none →
        ∃ f, exec i s = .next (takeFault f s) ∧
          ∃ k < rs.length, s.accessFault (base + BitVec.ofNat 32 (sz.bytes * k)) sz = some f) := by
  rcases admitted_exec hw s with ⟨t, ht, hx⟩ | ⟨f, hf, hx⟩
  · obtain ⟨hacc, hQ⟩ := hok t ht
    refine ⟨fun _ => ⟨t, hx, hQ⟩, fun j hj hne => ?_⟩
    obtain ⟨p, hp, hfault⟩ := (exists_slot_iff (P := fun a => s.accessFault a sz ≠ none)).2 ⟨j, hj, hne⟩
    exact absurd (accessFault_eq_none_iff.2 (hacc p hp)) hfault
  · obtain ⟨p, hp, g, hg, he⟩ := herr _ hf
    cases he
    obtain ⟨k, hk, hfault⟩ := (exists_slot_iff (P := fun a => s.accessFault a sz = some f)).1 ⟨p, hp, hg⟩
    refine ⟨fun hacc => ?_, fun _ _ _ => ⟨f, hx, k, hk, hfault⟩⟩
    exact absurd ((accessFault_eq_none_iff.2 (hacc k hk)).symm.trans hfault) nofun

/-- Settles O54: the listed registers stand in the order of their bits; the pseudocode stores them at slots that do not
overlap, and stops only with the fault of one of them. -/
theorem movemStores : Obligations.MovemStores := by
  intro sz l dst s base rs hsz hrs
  subst hrs
  refine ⟨fun n => ⟨mem_listedRegs, mem_listedRegs⟩, (listedRegs_ordered l).imp fun {r r'} hlt => ?order, fun hw hb =>
    exec_of_slots hw (fun t ht => ?ok) fun e he => movemStoreBody_error hw hb (bodyOf_movemStore hsz ▸ he)⟩
  case order =>
    match r, r', hlt with
    | .data _, .data _, hlt => exact hlt
    | .data _, .addr _, _ => trivial
    | .addr _, .addr _, hlt => exact Nat.lt_of_add_lt_add_left hlt
    | .addr _, .data m, hlt => exact absurd hlt (by simp only [listBit]; omega)
  case ok =>
    rw [bodyOf_movemStore hsz] at ht
    have hflags := movemStoreBody_flags ht
    obtain ⟨u, ⟨hacc, hholds, hrest, hpc, hcs⟩, rfl⟩ := movemStoreBody_ok hw hb ht
    refine ⟨hacc, fun j r hr => ?slot, ?base, ?rest, by simp [FallsThrough, hpc, hcs], hflags⟩
    case slot =>
      rw [advance_mem, stepTo_mem]
      exact hholds _ (mem_slots_of_getElem? hr)
    case base => rintro n rfl; simp [State.stepTo]
    case rest =>
      refine onlyChanges_mono (onlyChanges_trans hrest (onlyChanges_trans (onlyChanges_stepTo u dst base)
        (onlyChanges_advance _))) (by simp) fun b hb => (exists_slot_iff (P := (within · sz.bytes b))).1 ?_
      simpa [noByte] using hb

/-- Settles O55: the pseudocode loads the listed registers, none of them twice, from their slots, and stops only with the
fault of one of them; the register `(An)+` steps is not listed. -/
theorem movemLoads : Obligations.MovemLoads := by
  intro sz l src s base hsz hw hb
  refine exec_of_slots hw (fun t ht => ?_) fun e he => movemLoadBody_error hsz hw hb (bodyOf_movemLoad hsz ▸ he)
  rw [bodyOf_movemLoad hsz] at ht
  have hflags := movemLoadBody_flags ht
  obtain ⟨u, ⟨hacc, hholds, hrest, hpc, hcs⟩, rfl⟩ := movemLoadBody_ok hw hb ht
  refine ⟨hacc, fun j r hr => ?slot, ?base, ?rest, by simp [FallsThrough, hpc, hcs], hflags⟩
  case slot =>
    rw [advance_x, (onlyChanges_stepTo u src _).regs r (movemLoad_steps_unlisted hw (List.mem_of_getElem? hr))]
    exact hholds _ (mem_slots_of_getElem? hr)
  case base => rintro n rfl; simp [State.stepTo]
  case rest =>
    rw [slots_regs] at hrest
    exact onlyChanges_mono (onlyChanges_trans hrest (onlyChanges_trans (onlyChanges_stepTo ..) (onlyChanges_advance _)))
      (by simp) (by simp)

end Sys2Proof.Machine
end

section
/-! SUPPORT. The stack primitives, calls and returns (R150, R253 to R255, R329). -/

namespace Sys2Proof.Machine

/-! ## The stack -/

/-- An access whose checks fail stops with the fault they name (R62, R63). -/
theorem checkAccess_of_fault {addr : Word} {sz : Size} {s : State} {f : Fault} (h : s.accessFault addr sz = some f) :
    checkAccess addr sz s = .error (.raise f) := by
  cases hc : checkAccess addr sz s with
  | ok u => exact absurd ((accessFault_eq_none_iff.2 (checkAccess_eq_ok.1 hc)).symm.trans h) nofun
  | error e =>
    obtain ⟨g, hg, rfl⟩ := accessFault_of_check hc
    cases hg.symm.trans h
    rfl

/-- The state after a value is pushed (R150). -/
def State.pushed (s : State) (v : Word) : State := (s.putReg .sp (s.x .sp - 4) .L).storeAt (s.x .sp - 4) .L v

section
variable (s : State) (v : Word)

@[simp] theorem pushed_x (r : Reg) : (s.pushed v).x r = if r = .sp then s.x .sp - 4 else s.x r := by simp [State.pushed]

@[simp] theorem pushed_flags : (s.pushed v).flags = s.flags := by simp [State.pushed]

@[simp] theorem pushed_callStack : (s.pushed v).callStack = s.callStack := by simp [State.pushed]

@[simp] theorem pushed_program : (s.pushed v).program = s.program := by simp [State.pushed]

@[simp] theorem pushed_options : (s.pushed v).options = s.options := by simp [State.pushed]

theorem pushed_readBytes : (s.pushed v).mem.readBytes (s.x .sp - 4).toNat 4 = bytesOf .L v :=
  readBytes_storeAt _ _ .L v

/-- A push changes the stack pointer and the four bytes below it. -/
theorem onlyChanges_pushed : OnlyChanges s (s.pushed v) [.sp] (within (s.x .sp - 4) 4) :=
  onlyChanges_mono (onlyChanges_trans (onlyChanges_putReg ..) (onlyChanges_storeAt ..)) (by simp) (by simp [noByte])

end

section
variable {s : State} {v : Word}

theorem push32_of_accessible (h : s.accessible (s.x .sp - 4) .L) : push32 v s = .ok (s.pushed v) :=
  push32_eq_ok.2 ⟨h, rfl⟩

theorem push32_of_fault {f : Fault} (h : s.accessFault (s.x .sp - 4) .L = some f) :
    push32 v s = .error (.raise f) :=
  (memory_of_check (checkAccess_of_fault ((accessFault_congr (by simp)).trans h))).2 v

end

/-! ## The call -/

/-- The snapshot of a call record is the stack pointer before the push or after it (log 17). -/
theorem snapshotSp_cases (before after : Word) :
    snapshotSp before after = before ∨ snapshotSp before after = after := by
  unfold snapshotSp
  split
  · exact .inr rfl
  · exact .inl rfl

/-- The state a call to `target` answers. -/
def State.called (s : State) (target : Word) : State :=
  ((s.pushed (s.pc + 4)).jump target).pushCall target (s.x .sp)

@[simp] theorem called_sp (s : State) (target : Word) : (s.called target).x .sp = s.x .sp - 4 := by simp [State.called]

@[simp] theorem called_flags (s : State) (target : Word) : (s.called target).flags = s.flags := by simp [State.called]

/-- A call changes what its push changes, `pc` and the call stack. -/
theorem onlyChanges_called (s : State) (target : Word) :
    OnlyChanges s (s.called target) [.sp] (within (s.x .sp - 4) 4) :=
  onlyChanges_mono (onlyChanges_trans (onlyChanges_pushed ..) (onlyChanges_trans (onlyChanges_jump ..)
    (onlyChanges_pushCall ..))) (by simp) (by simp [noByte])

section
variable {i : Instr} {op : Operand} {target : Word} {s : State} (hw : i.wellFormed = true)
  (hcall : i = .bsr op ∧ op = .address target ∨ i = .jsr op ∧ effAddr op s = .ok target)
include hcall

/-- BSR and JSR are one pseudocode once the target is known. -/
theorem bodyOf_call : bodyOf i s = callBody (fun _ => .ok target) s := by
  rcases hcall with ⟨rfl, rfl⟩ | ⟨rfl, htarget⟩
  · rfl
  · exact bind_of_ok htarget _

include hw

theorem exec_call (h : s.accessible (s.x .sp - 4) .L) : exec i s = .next (s.called target) :=
  exec_of_body hw ((bodyOf_call hcall).trans (bind_of_ok (push32_of_accessible h) _))

theorem exec_call_faults {f : Fault} (h : s.accessFault (s.x .sp - 4) .L = some f) :
    exec i s = .next (takeFault f s) :=
  exec_takesFault (exec_eq_runForm i s) ((bodyOf_call hcall).trans (bind_of_error (push32_of_fault h) _)) hw

end

/-- Settles O47: a call is a push of the return address, a jump and a call record; the push is its only access. -/
theorem callsPush : Obligations.CallsPush := by
  intro i op target s hw hcall
  refine ⟨fun h => ⟨s.called target, _, exec_call hw hcall h, rfl, called_sp .., pushed_readBytes .., onlyChanges_called ..,
    called_flags .., pushCall_callStack .., ?label, ?snapshot⟩, fun f hf => exec_call_faults hw hcall hf⟩
  case label => simp
  case snapshot => simpa using snapshotSp_cases (s.x .sp) (s.x .sp - 4)

/-! ## The return -/

/-- The state RTS answers (R255). -/
def State.returned (s : State) : State :=
  ((s.putReg .sp (s.x .sp + 4) .L).jump (valueOf .L (s.mem.readBytes (s.x .sp).toNat 4))).popCall

theorem exec_rts {s : State} (h : s.accessible (s.x .sp) .L) : exec .rts s = .next s.returned :=
  exec_of_body rfl (bind_of_ok (pop32_eq_ok.2 ⟨h, rfl⟩) _)

/-- A return changes the stack pointer, `pc` and the call stack. -/
theorem onlyChanges_returned (s : State) : OnlyChanges s s.returned [.sp] noByte :=
  onlyChanges_mono (onlyChanges_trans (onlyChanges_putReg ..) (onlyChanges_trans (onlyChanges_jump ..)
    (onlyChanges_popCall ..))) (by simp) (by simp [noByte])

/-- A register that ends as it began is not among the changed ones. -/
theorem onlyChanges_restored {s t : State} {r : Reg} {rs : List Reg} {bs : Nat → Prop}
    (h : OnlyChanges s t (r :: rs) bs) (hr : t.x r = s.x r) : OnlyChanges s t rs bs where
  regs r' hr' := by
    by_cases he : r' = r
    · exact he ▸ hr
    · exact h.regs r' (by simp [he, hr'])
  bytes := h.bytes
  status := h.status
  reason := h.reason
  reachedBottom := h.reachedBottom
  curInterrupt := h.curInterrupt
  history := h.history
  undone := h.undone
  answers := h.answers
  program := h.program
  options := h.options

/-! ## The call and its return -/

section
variable (s : State) (target : Word)

/-- The return pops the address the call pushed. -/
theorem called_returned_pc : (s.called target).returned.pc = s.pc + 4 :=
  calc (s.called target).returned.pc
    _ = valueOf .L ((s.called target).mem.readBytes (s.x .sp - 4).toNat 4) := by simp [State.returned]
    _ = valueOf .L (bytesOf .L (s.pc + 4)) := congrArg _ (pushed_readBytes ..)
    _ = s.pc + 4 := valueOf_bytesOf ..

theorem called_returned_sp : (s.called target).returned.x .sp = s.x .sp := by simp [State.returned]

theorem onlyChanges_called_returned :
    OnlyChanges s (s.called target).returned [] (within (s.x .sp - 4) 4) :=
  onlyChanges_restored (onlyChanges_mono (onlyChanges_trans (onlyChanges_called ..) (onlyChanges_returned _)) (by simp)
    (by simp [noByte])) (called_returned_sp ..)

end

/-- Settles O49: the return finds its address where the call pushed it, and each undoes the stack pointer and the call
record of the other. -/
theorem callThenReturn : Obligations.CallThenReturn := by
  intro i op target s hw hcall h
  have hpop : (s.called target).accessible ((s.called target).x .sp) .L := by
    rw [called_sp]
    exact (accessible_congr (onlyChanges_called s target).options).2 h
  exact ⟨_, _, exec_call hw hcall h, rfl, exec_rts hpop, called_returned_pc .., onlyChanges_called_returned ..,
    by simp [State.returned], by simp [State.returned, State.called]⟩

end Sys2Proof.Machine
end

section
/-! SUPPORT. The step of a running engine: its fetch, the entry it runs and the end check (R104, R130 to R133). -/

namespace Sys2Proof.Machine

/-! ## The fetch -/

/-- No entry lies between entry addresses or past the table (R131, D7). -/
theorem fetch_eq_none {s : State} (h : s.pc.toNat % 4 ≠ 0 ∨ instrEnd s.program ≤ s.pc.toNat) : fetch s = none := by
  unfold fetch
  split
  · have hend : 4 * s.program.lines.length ≤ s.pc.toNat := h.resolve_left (not_not_intro ‹_›)
    exact List.getElem?_eq_none (by omega)
  · rfl

/-- Entry `k` lies at address `4 * k` (R91, R131). -/
theorem fetch_at {s : State} {k : Nat} (h : k < s.program.lines.length) (hpc : s.pc.toNat = 4 * k) :
    fetch s = some s.program.lines[k] := by
  have hk : s.pc.toNat / 4 = k := by omega
  rw [fetch, if_pos (by omega), hk, List.getElem?_eq_getElem h]

/-! ## The step -/

section
variable {s : State} (hu : s.undone = false) (hs : s.status = .running)
include hu hs

theorem step_without_entry (hf : fetch s = none) : step s = .next (takeFault .illegalInstruction s) := by
  simp [step, hostStep, hu, engineStep, hs, hf]

theorem step_of_fetch {line : InstructionLine} (hf : fetch s = some line) : step s = runLine line s := by
  simp [step, hostStep, hu, engineStep, hs, hf]

end

theorem runLine_refused {s : State} {line : InstructionLine} {i : Instr} {r : Refusal} (hd : decode line.entry = .ok i)
    (hx : exec i s = .refused r) : runLine line s = .refused r := by
  simp [runLine, hd, hx]

/-- An entry whose descriptor denotes no instruction takes the fault, and its history entry is closed (D23, log 14). -/
theorem runLine_noInstruction {line : InstructionLine} (h : opcode line.entry.descriptor = none) (s : State) :
    runLine line s = .next (closeEntry s.pc line.lineIndex (takeFault .illegalInstruction s)) := by
  simp [runLine, decode, h]

/-! ## The end check -/

theorem endCheck_status (s : State) : (endCheck s).status =
    if s.status = .running ∧ s.pc.toNat = instrEnd s.program then .terminated else s.status := by
  simp only [endCheck, Bool.and_eq_true, decide_eq_true_eq]
  split <;> rfl

theorem endCheck_reachedBottom (s : State) : (endCheck s).reachedBottom =
    if s.status = .running ∧ s.pc.toNat = instrEnd s.program then true else s.reachedBottom := by
  simp only [endCheck, Bool.and_eq_true, decide_eq_true_eq]
  split <;> rfl

/-- Settles O10: after `exec`, closing the entry writes the history and the open entry, the end check the status and the
bottom mark. -/
theorem stepRunsDecodedInstruction : Obligations.StepRunsDecodedInstruction := by
  intro s line i hu hs hf hd
  refine ⟨fun u hx => ⟨_, step_runs hu hs hf hd hx, ?_⟩,
    fun r hx => (step_of_fetch hu hs hf).trans (runLine_refused hd hx)⟩
  exact ⟨endCheck_x _, endCheck_mem _, endCheck_flags _, endCheck_pc _, endCheck_callStack _, endCheck_reason _,
    endCheck_curInterrupt _, endCheck_program _, endCheck_options _, endCheck_undone _, endCheck_answers _,
    endCheck_openEntry _, endCheck_history _, endCheck_status _, endCheck_reachedBottom _⟩

/-- Settles O11: the fetch finds the entries of the table and nothing else; an entry that denotes no instruction is one
that the decoder rejects as such. -/
theorem fetchFaults : Obligations.FetchFaults := by
  refine ⟨fun s hu hs h => step_without_entry hu hs (fetch_eq_none h), fun s k h hpc => fetch_at h hpc,
    fun s line hu hs hf h => ⟨_, (step_of_fetch hu hs hf).trans (runLine_noInstruction h s), ?_⟩⟩
  simp

end Sys2Proof.Machine
end

section
/-! SUPPORT. The addressing modes (R135 to R151). -/

namespace Sys2Proof.Machine

/-- The step of predecrement and postincrement is the size, but 2 for a byte on `A7` (R145). -/
theorem incAmount_eq (sz : Size) (n : Fin 8) :
    incAmount sz n = if sz = .B ∧ n = 7 then 2 else BitVec.ofNat 32 sz.bytes := by
  cases sz <;> simp [incAmount]

/-- A word index is the low half of its register, sign-extended (R141). -/
theorem indexValue_word (r : Reg) (s : State) :
    indexValue { reg := r, size := .word } s = ((s.x r).extractLsb' 0 16).signExtend 32 := by
  rw [indexValue, BitVec.setWidth_eq_extractLsb' (by decide)]

theorem plainAddress_word (n : Fin 8) (d : Word) (r : Reg) (s : State) :
    plainAddress n d (some { reg := r, size := .word }) s
      = s.x (.addr n) + d + ((s.x r).extractLsb' 0 16).signExtend 32 := by
  rw [plainAddress, indexValue_word]

/-- Settles O23: each form computes its location by definition, up to the word index and the step; what resolving leaves
alone is `resolve_onlyChanges`. -/
theorem addressingModes : Obligations.AddressingModes := by
  refine ⟨fun sz s => ⟨fun r => ⟨rfl, fun v => rfl⟩, fun addr => ⟨rfl, fun v => rfl⟩⟩,
    fun n d r s => ⟨rfl, rfl, congrArg Except.ok (plainAddress_word n d r s)⟩, fun addr s => ⟨rfl, rfl⟩,
    fun v sz s => ⟨rfl, rfl⟩, fun r sz s => rfl, fun n d sz s => rfl,
    fun n d r sz s => ⟨rfl, congrArg (fun addr => Except.ok (Loc.mem addr, s)) (plainAddress_word n d r s)⟩,
    fun addr sz s => rfl, fun n sz s => ?pre, fun n sz s => ?post⟩
  case pre =>
    refine ⟨s.putReg (.addr n) (s.x (.addr n) - incAmount sz n) .L, ?_, ?_, onlyChanges_putReg .., putReg_flags ..,
      putReg_pc ..⟩
    · simp [resolve]
    · simp [incAmount_eq]
  case post =>
    refine ⟨_, rfl, ?_, onlyChanges_putReg .., putReg_flags .., putReg_pc ..⟩
    simp [incAmount_eq]

end Sys2Proof.Machine
end

section
/-! SUPPORT. Data movement: MOVE and MOVEQ (R170, R171). -/

namespace Sys2Proof.Machine

/-! ## MOVE -/

theorem bodyOf_move (sz : Size) (src dst : Operand) (s : State) :
    bodyOf (Instr.move sz src dst) s = moveBody sz src dst s := by
  cases sz <;> rfl

/-- A readable source and a writable destination take MOVE to its end: value, flags, `pc` (R170). -/
theorem moveBody_of {sz : Size} {src dst : Operand} {s u w : State} {ls ld : Loc} {v : BitVec sz.bits}
    (hsrc : Reads src sz s ls u v) (hdst : resolve dst sz u = .ok (ld, w)) (hw : ld.writable sz w) :
    moveBody sz src dst s = .ok ((w.putLoc ld sz v).putFlags (logicFlags v s.flags)).advance := by
  have hflags : (w.putLoc ld sz v).flags = s.flags := by
    rw [putLoc_flags, resolve_flags hdst, resolve_flags hsrc.1]
  rw [← hflags]
  exact (bind_of_ok (readSource_of_reads hsrc) _).trans (bind_of_ok (writeDest_of hdst hw v) _)

/-- Settles O25: the destination is written at the location it resolved to, the flags are those of the value (`logicFlags`). -/
theorem moveCopies : Obligations.MoveCopies := by
  intro sz src dst s u w ls ld v hwf hsrc hdst hw
  have hbody := (bodyOf_move sz src dst s).trans (moveBody_of hsrc hdst hw)
  exact ⟨_, exec_of_body hwf hbody, wrote_two hsrc.1 hdst hw v _, rfl⟩

/-! ## MOVEQ -/

/-- A word in the range of a signed byte is the sign extension of its low byte. -/
theorem signExtend_setWidth_byte {v : Word} (hlo : -128 ≤ v.toInt) (hhi : v.toInt ≤ 127) :
    (v.setWidth 8).signExtend 32 = v := by
  refine BitVec.eq_of_toInt_eq ?_
  calc ((v.setWidth 8).signExtend 32).toInt
      = (v.setWidth 8).toInt := BitVec.toInt_signExtend_of_le (by decide)
    _ = v.toInt.bmod 256 := by
      rw [BitVec.toInt_setWidth, BitVec.toInt_eq_toNat_bmod, Int.bmod_bmod_of_dvd (by decide)]
    _ = v.toInt := Int.bmod_eq_of_le (by omega) (by omega)

/-- The constants MOVEQ admits load as themselves (R171). -/
theorem moveqBody_of {v : Word} (hlo : -128 ≤ v.toInt) (hhi : v.toInt ≤ 127) (n : Fin 8) (s : State) :
    moveqBody (.immediate v) (.register (.data n)) s
      = .ok ((s.putReg (.data n) v .L).putFlags (logicFlags v s.flags)).advance := by
  calc moveqBody (.immediate v) (.register (.data n)) s
      = .ok ((s.putReg (.data n) ((v.setWidth 8).signExtend 32) .L).putFlags
          (logicFlags ((v.setWidth 8).signExtend 32) s.flags)).advance := rfl
    _ = _ := by rw [signExtend_setWidth_byte hlo hhi]

/-- Settles O26: an admitted constant is loaded unchanged, and no operand steps a register. -/
theorem moveqLoads : Obligations.MoveqLoads := by
  intro v n s hlo hhi
  have hwf : (Instr.moveqL (.immediate v) (.register (.data n))).wellFormed = true :=
    Bool.and_eq_true_iff.2 ⟨isImmIn_iff.2 ⟨v, rfl, hlo, hhi⟩, rfl⟩
  exact ⟨_, exec_of_body hwf (moveqBody_of hlo hhi n s),
    wroteReg_one (src := .immediate v) (sz := .L) rfl (.data n) v .L _, rfl⟩

end Sys2Proof.Machine
end

section
/-! SUPPORT. Addition, subtraction, comparison, negation and the test of an operand (R180 to R190), and the conditions
after a comparison (R250). -/

namespace Sys2Proof.Machine

/-! ## The flag computations -/

theorem addOverflow_eq_decide {w : Nat} (a b : BitVec w) :
    addOverflow a b = decide (a.toInt + b.toInt ≠ (b + a).toInt) := by
  rw [BitVec.add_comm b a]
  exact decide_not.symm

theorem subOverflow_eq_decide {w : Nat} (a b : BitVec w) :
    subOverflow a b = decide (b.toInt - a.toInt ≠ (b - a).toInt) :=
  decide_not.symm

theorem subBorrow_zero {w : Nat} (v : BitVec w) : subBorrow v 0 = (v != 0) := by
  rw [Bool.eq_iff_iff]
  simp [subBorrow, Nat.pos_iff_ne_zero, BitVec.toNat_eq]

/-- Only the negation of the most negative value overflows. -/
theorem subOverflow_zero {w : Nat} (hw : 0 < w) (v : BitVec w) : subOverflow v 0 = (v == BitVec.intMin w) := by
  rw [subOverflow_eq_decide, BitVec.ofNat_eq_ofNat, BitVec.zero_sub, BitVec.toInt_zero, Int.zero_sub]
  by_cases hv : v = BitVec.intMin w
  · have hneg : v.toInt < 0 := BitVec.toInt_neg_of_msb_true (by simp [hv, BitVec.msb_intMin, hw])
    have hself : -v = v := by rw [hv, BitVec.neg_intMin]
    rw [hself, beq_iff_eq.2 hv]
    exact decide_eq_true (by omega)
  · rw [BitVec.toInt_neg_of_ne_intMin hv, beq_eq_false_iff_ne.2 hv]
    exact decide_eq_false (not_not_intro rfl)

/-- NEG's flags (R190): zero minus the operand. -/
theorem subCompute_zero_flags {w : Nat} (hw : 0 < w) (v : BitVec w) (f : Flags) :
    (subCompute v 0 f).flags
      = { x := v != 0, n := (-v).msb, z := v == 0, v := v == BitVec.intMin w, c := v != 0 } := by
  have hz : decide (-v = 0) = (v == 0) := decide_eq_decide.2 neg_eq_zero
  rw [← subBorrow_zero, ← subOverflow_zero hw, ← hz, ← zero_sub]
  rfl

/-! ## The order of the operands in the flags of a comparison -/

/-- Where the balanced remainder is not the number itself, it has the other sign. -/
theorem bmod_neg_iff_of_ne {x : Int} {m : Nat} (hlo : -m ≤ x) (hhi : x < m) (hne : x.bmod m ≠ x) :
    x.bmod m < 0 ↔ 0 ≤ x := by
  have hout : ¬(-(m / 2 : Int) ≤ x ∧ x < (m + 1) / 2) := fun h => hne (Int.bmod_eq_of_le h.1 h.2)
  rw [Int.bmod_neg_iff hlo hhi]
  omega

/-- The sign of a difference is wrong exactly when the difference overflows. -/
theorem msb_sub_bne_subOverflow {w : Nat} (a b : BitVec w) :
    ((b - a).msb != subOverflow a b) = decide (b.toInt < a.toInt) := by
  rw [subOverflow_eq_decide, BitVec.msb_eq_toInt]
  by_cases hfit : b.toInt - a.toInt = (b - a).toInt
  · simp only [← hfit, ne_eq, not_true_eq_false, decide_false, Bool.bne_false, decide_eq_decide]
    omega
  · have hlo := BitVec.le_two_mul_toInt (x := b)
    have hhi := BitVec.two_mul_toInt_lt (x := b)
    have hlo' := BitVec.le_two_mul_toInt (x := a)
    have hhi' := BitVec.two_mul_toInt_lt (x := a)
    have hflip : (b - a).toInt < 0 ↔ 0 ≤ b.toInt - a.toInt := by
      rw [BitVec.toInt_sub] at hfit ⊢
      exact bmod_neg_iff_of_ne (by push_cast; omega) (by push_cast; omega) (Ne.symm hfit)
    simp only [ne_eq, hfit, not_false_eq_true, decide_true, Bool.bne_true, hflip, ← decide_not, decide_eq_decide]
    omega

section
variable {w : Nat} (a b : BitVec w) (f : Flags)

theorem cmpFlags_c : (cmpFlags a b f).c = decide (b.toNat < a.toNat) := rfl

theorem cmpFlags_z : (cmpFlags a b f).z = decide (b = a) := decide_eq_decide.2 sub_eq_zero

theorem cmpFlags_n_bne_v : ((cmpFlags a b f).n != (cmpFlags a b f).v) = decide (b.toInt < a.toInt) :=
  msb_sub_bne_subOverflow a b

end

/-! ## The instructions -/

/-- `exec_of_body` for a pseudocode known through an equation of `exec` (`exec_add` and its like). -/
theorem exec_completes {i : Instr} {sh : Shape} {body : State → Res State} {s t : State}
    (he : exec i s = runForm sh body s) (hb : body s = .ok t) (hw : i.wellFormed = true) : exec i s = .next t := by
  rw [he]
  rcases runForm_cases sh body s with ⟨-, u, hu, hx⟩ | ⟨-, f, hf, -⟩ | ⟨r, hx, -⟩
  · cases hb.symm.trans hu; exact hx
  · cases hb.symm.trans hf
  · rcases admitted_exec hw s with ⟨u, -, hu⟩ | ⟨f, -, hf⟩
    · cases hx.symm.trans (he.symm.trans hu)
    · cases hx.symm.trans (he.symm.trans hf)

theorem wellFormed_add (sz : Size) (src dst : Operand) :
    (Instr.add sz src dst).wellFormed = (Shape.addSub sz src dst).admitted := by cases sz <;> rfl

theorem wellFormed_sub (sz : Size) (src dst : Operand) :
    (Instr.sub sz src dst).wellFormed = (Shape.addSub sz src dst).admitted := by cases sz <;> rfl

theorem wellFormed_neg (sz : Size) (dst : Operand) :
    (Instr.neg sz dst).wellFormed = (Shape.unary sz dst).admitted := by cases sz <;> rfl

theorem addSub_dest_not_imm {sz : Size} {src dst : Operand} (h : (Shape.addSub sz src dst).admitted = true) :
    dst.isImm = false := (neverRefuses_addSub h).2.2

theorem quick_dest_not_imm {sz : Size} {src dst : Operand} (h : (Shape.quick sz src dst).admitted = true) :
    dst.isImm = false := (isDataAlt_not (Bool.and_eq_true_iff.1 h).2).2

theorem unary_dest_not_imm {sz : Size} {dst : Operand} (h : (Shape.unary sz dst).admitted = true) :
    dst.isImm = false := (isDataAlt_not h).2

theorem size_bits_pos (sz : Size) : 0 < sz.bits := by cases sz <;> decide

section
variable {sz : Size} {src dst : Operand} {s u w : State} {ls ld : Loc} {a b : BitVec sz.bits}
  (hsrc : Reads src sz s ls u a)
include hsrc

/-- Two readable operands take ADD, ADDQ, SUB and SUBQ to their end: value, flags, `pc` (R182, R184, R185, R187). -/
theorem arithBody_of (hdst : Reads dst sz u ld w b) (hi : dst.isImm = false)
    (f : BitVec sz.bits → BitVec sz.bits → Flags → Computed sz.bits) :
    arithBody sz f src dst s
      = .ok ((w.putLoc ld sz (f a b w.flags).value).putFlags (f a b w.flags).flags).advance :=
  (bind_of_ok (readSource_of_reads hsrc) _).trans (bind_of_ok (modifyDest_of hi hdst _) _)

/-- What ADD, ADDQ, SUB and SUBQ leave, whatever they compute. -/
theorem exec_arith (hdst : Reads dst sz u ld w b) (hi : dst.isImm = false)
    {f : BitVec sz.bits → BitVec sz.bits → Flags → Computed sz.bits} {i : Instr} {sh : Shape}
    (he : exec i s = runForm sh (arithBody sz f src dst) s) (hwf : i.wellFormed = true) :
    ∃ t, exec i s = .next t ∧ Wrote s w t (src.steps ++ dst.steps) ld sz (f a b w.flags).value ∧
      t.flags = (f a b w.flags).flags :=
  ⟨_, exec_completes he (arithBody_of hsrc hdst hi f) hwf,
    wrote_two hsrc.1 hdst.1 (reads_writable hi hdst) _ _, rfl⟩

/-- What ADDA and SUBA leave, whatever they compute (R183, R186). -/
theorem exec_addrArith {f : Word → Word → Word} {n : Fin 8} {i : Instr} {sh : Shape}
    (he : exec i s = runForm sh (addrArithBody sz f src (.register (.addr n))) s) (hwf : i.wellFormed = true) :
    ∃ t, exec i s = .next t ∧ WroteReg s u t src.steps (.addr n) (f (u.x (.addr n)) (a.signExtend 32)) ∧
      t.flags = s.flags := by
  have hbody : addrArithBody sz f src (.register (.addr n)) s
      = .ok (u.putReg (.addr n) (f (u.x (.addr n)) (a.signExtend 32)) .L).advance :=
    bind_of_ok (readSource_of_reads hsrc) _
  exact ⟨_, exec_completes he hbody hwf, wroteReg_quiet hsrc.1 _ _ _, addrArithBody_flags hbody⟩

/-- A readable source takes CMP to its end: flags, `pc` (R188). -/
theorem exec_cmp_of {n : Fin 8} (hwf : (Instr.cmp sz src (.register (.data n))).wellFormed = true)
    (hb : b = (u.x (.data n)).setWidth sz.bits) :
    ∃ t, exec (Instr.cmp sz src (.register (.data n))) s = .next t ∧ WroteNothing s u t src.steps ∧
      t.flags = cmpFlags a b s.flags := by
  have hbody : cmpBody sz src (.register (.data n)) s = .ok (u.putFlags (cmpFlags a b u.flags)).advance := by
    rw [hb]
    exact bind_of_ok (readSource_of_reads hsrc) _
  rw [resolve_flags hsrc.1] at hbody
  exact ⟨_, exec_completes (exec_cmp ..) hbody hwf, wroteNothing_one hsrc.1 _, rfl⟩

end

/-! ## ADD, ADDQ, SUB, SUBQ -/

section
variable {sz : Size} {src dst : Operand} {i : Instr} (hwf : i.wellFormed = true) (s : State)
include hwf

/-- ADD and ADDQ run one pseudocode, and no admitted form of them has an immediate destination (R182, R184). -/
theorem adds_runForm (hmem : i ∈ [Instr.add sz src dst, Instr.addq sz src dst]) :
    ∃ sh, exec i s = runForm sh (arithBody sz addCompute src dst) s ∧ dst.isImm = false := by
  rcases List.mem_pair.1 hmem with rfl | rfl
  · exact ⟨_, exec_add .., addSub_dest_not_imm (wellFormed_add sz src dst ▸ hwf)⟩
  · exact ⟨_, exec_addq .., quick_dest_not_imm (wellFormed_addq sz src dst ▸ hwf)⟩

/-- SUB and SUBQ run one pseudocode, and no admitted form of them has an immediate destination (R185, R187). -/
theorem subs_runForm (hmem : i ∈ [Instr.sub sz src dst, Instr.subq sz src dst]) :
    ∃ sh, exec i s = runForm sh (arithBody sz subCompute src dst) s ∧ dst.isImm = false := by
  rcases List.mem_pair.1 hmem with rfl | rfl
  · exact ⟨_, exec_sub .., addSub_dest_not_imm (wellFormed_sub sz src dst ▸ hwf)⟩
  · exact ⟨_, exec_subq .., quick_dest_not_imm (wellFormed_subq sz src dst ▸ hwf)⟩

end

/-- Settles O27: the destination and the flags are those of `addCompute`. -/
theorem addAdds : Obligations.AddAdds := by
  intro sz src dst s u w ls ld a b hsrc hdst i hmem hwf
  obtain ⟨sh, he, hi⟩ := adds_runForm hwf s hmem
  obtain ⟨t, ht, hwrote, hflags⟩ := exec_arith hsrc hdst hi he hwf
  refine ⟨t, ht, hwrote, ?_⟩
  rw [hflags]
  exact ⟨rfl, rfl, addOverflow_eq_decide a b, rfl, rfl⟩

/-- Settles O28: the destination and the flags are those of `subCompute`. -/
theorem subSubtracts : Obligations.SubSubtracts := by
  intro sz src dst s u w ls ld a b hsrc hdst i hmem hwf
  obtain ⟨sh, he, hi⟩ := subs_runForm hwf s hmem
  obtain ⟨t, ht, hwrote, hflags⟩ := exec_arith hsrc hdst hi he hwf
  refine ⟨t, ht, hwrote, ?_⟩
  rw [hflags]
  exact ⟨rfl, rfl, subOverflow_eq_decide a b, rfl, rfl⟩

/-! ## NEG -/

/-- Settles O29: the operand becomes zero minus itself, and its flags are read off `subCompute`. -/
theorem negNegates : Obligations.NegNegates := by
  intro sz dst s w ld v hwf hdst
  have hi := unary_dest_not_imm (wellFormed_neg sz dst ▸ hwf)
  have hbody : negBody sz dst s = .ok ((w.putLoc ld sz (0 - v)).putFlags (subCompute v 0 w.flags).flags).advance :=
    bind_of_ok (modifyDest_of hi hdst _) _
  rw [zero_sub] at hbody
  exact ⟨_, exec_completes (exec_neg ..) hbody hwf, wrote_one hdst.1 (reads_writable hi hdst) _ _,
    subCompute_zero_flags (size_bits_pos sz) v w.flags⟩

/-! ## ADDA, SUBA -/

/-- Settles O30: both run the pseudocode on the whole address register, with their own operation. -/
theorem addressArithmetic : Obligations.AddressArithmetic := by
  intro sz src n s u ls a hsz hsrc
  exact ⟨exec_addrArith hsrc (exec_adda hsz ..), exec_addrArith hsrc (exec_suba hsz ..)⟩

/-! ## CMP and the conditions after it -/

/-- Settles O31: the flags are `cmpFlags` of the source and the register. -/
theorem cmpCompares : Obligations.CmpCompares := by
  intro sz src n s u ls a b hwf hsrc hb
  obtain ⟨t, ht, hnothing, hflags⟩ := exec_cmp_of hsrc hwf hb
  refine ⟨t, ht, hnothing, ?_⟩
  rw [hflags, ← subOverflow_eq_decide]
  rfl

section
variable {w : Nat} {a b : BitVec w} {f : Flags} (hz : f.z = decide (b = a))
include hz

/-- The conditions on `C` and `Z` (R250), where `C` is the unsigned order of two values and `Z` their equality. -/
theorem cond_unsigned (hc : f.c = decide (b.toNat < a.toNat)) :
    cond .hi f = decide (a.toNat < b.toNat) ∧ cond .ls f = decide (b.toNat ≤ a.toNat) ∧
      cond .cc f = decide (a.toNat ≤ b.toNat) ∧ cond .cs f = decide (b.toNat < a.toNat) := by
  have heq : f.z = decide (b.toNat = a.toNat) := hz.trans (decide_eq_decide.2 BitVec.toNat_inj.symm)
  simp only [cond, heq, hc, ← decide_not, ← Bool.decide_and, ← Bool.decide_or, decide_eq_decide]
  exact ⟨by omega, by omega, by omega, trivial⟩

/-- The conditions on `N`, `V` and `Z` (R250), where `N` and `V` differ as the signed order of two values says and `Z`
is their equality. -/
theorem cond_signed (hlt : (f.n != f.v) = decide (b.toInt < a.toInt)) :
    cond .ge f = decide (a.toInt ≤ b.toInt) ∧ cond .lt f = decide (b.toInt < a.toInt) ∧
      cond .gt f = decide (a.toInt < b.toInt) ∧ cond .le f = decide (b.toInt ≤ a.toInt) := by
  have hge : (f.n == f.v) = decide (¬ b.toInt < a.toInt) := by
    rw [decide_not, ← hlt]
    exact (Bool.not_not _).symm
  have heq : f.z = decide (b.toInt = a.toInt) := hz.trans (decide_eq_decide.2 BitVec.toInt_inj.symm)
  simp only [cond, heq, hlt, hge, ← decide_not, ← Bool.decide_and, ← Bool.decide_or, decide_eq_decide]
  exact ⟨by omega, trivial, by omega, by omega⟩

end

/-- Settles O32: the flags CMP leaves hold the unsigned order, the signed order and the equality of its operands. -/
theorem compareConditions : Obligations.CompareConditions := by
  intro sz src n s u t ls a b hwf hsrc hb ht
  obtain ⟨t', ht', -, hflags⟩ := exec_cmp_of hsrc hwf hb
  cases ht.symm.trans ht'
  rw [hflags]
  have hz := cmpFlags_z a b s.flags
  obtain ⟨hhi, hls, hcc, hcs⟩ := cond_unsigned hz (cmpFlags_c a b s.flags)
  obtain ⟨hge, hlt, hgt, hle⟩ := cond_signed hz (cmpFlags_n_bne_v a b s.flags)
  have hne : cond .ne (cmpFlags a b s.flags) = decide (b ≠ a) := (congrArg (!·) hz).trans decide_not.symm
  exact ⟨hz, hne, hhi, hls, hcc, hcs, hge, hlt, hgt, hle⟩

/-! ## TST -/

/-- Settles O33: the flags are `logicFlags` of the operand. -/
theorem tstTests : Obligations.TstTests := by
  intro sz dst s u l v hwf hdst
  have hbody : tstBody sz dst s = .ok (u.putFlags (logicFlags v u.flags)).advance :=
    bind_of_ok (readSource_of_reads hdst) _
  rw [resolve_flags hdst.1] at hbody
  exact ⟨_, exec_completes (exec_tst ..) hbody hwf, wroteNothing_one hdst.1 _, rfl⟩

end Sys2Proof.Machine
end

section
/-! SUPPORT. Multiplication and division (R200 to R204). -/

namespace Sys2Proof.Machine

/-! ## What the four instructions leave, whatever they compute (R200) -/

theorem mulDiv_admitted {src : Operand} (hdata : src.isData = true) (n : Fin 8) :
    (Shape.mulDiv src (.register (.data n))).admitted = true := Bool.and_eq_true_iff.2 ⟨hdata, rfl⟩

section
variable {src : Operand} {n : Fin 8} {s u : State} {ls : Loc} {a : BitVec 16} {i : Instr}
  {f : BitVec 16 → Word → Res MulDivResult} (hdata : src.isData = true) (hsrc : Reads src .W s ls u a)
  (he : exec i s = runForm (.mulDiv src (.register (.data n))) (mulDivBody f src (.register (.data n))) s)
include hdata hsrc he

/-- A readable source and a computation that answers take the instruction to its end: register, flags, `pc`. -/
theorem mulDiv_completes {out : MulDivResult} (hf : f a (u.x (.data n)) = .ok out) :
    ∃ t, exec i s = .next t ∧ t.x (.data n) = out.register ∧
      WroteReg s u t src.steps (.data n) (t.x (.data n)) ∧
      t.flags = { x := s.flags.x, n := out.negative, z := out.zero, v := false, c := false } := by
  have hbody : mulDivBody f src (.register (.data n)) s
      = .ok ((u.putReg (.data n) out.register .L).putFlags
          { x := u.flags.x, n := out.negative, z := out.zero, v := false, c := false }).advance :=
    (bind_of_ok (readSource_of_reads hsrc) _).trans (bind_of_ok hf _)
  rw [resolve_flags hsrc.1] at hbody
  have hwrote := wroteReg_one hsrc.1 (.data n) out.register .L
  exact ⟨_, he.trans (runForm_ok (mulDiv_admitted hdata n) hbody), (hwrote _).value,
    (hwrote _).value.symm ▸ hwrote _, rfl⟩

/-- A readable source and a computation that raises a fault make the instruction take it. -/
theorem mulDiv_takesFault {g : Fault} (hf : f a (u.x (.data n)) = .error (.raise g)) :
    exec i s = .next (takeFault g s) := by
  have hruns : shapeRuns (.mulDiv src (.register (.data n))) = true := by simp [shapeRuns, mulDiv_admitted hdata n]
  exact he.trans (runForm_raise hruns ((bind_of_ok (readSource_of_reads hsrc) _).trans (bind_of_error hf _)))

end

/-! ## Products (R201, R202) -/

/-- The signed product of two words fits 32 bits. -/
theorem toInt_ofInt_product (a b : BitVec 16) : (BitVec.ofInt 32 (a.toInt * b.toInt)).toInt = a.toInt * b.toInt := by
  have hlo := BitVec.le_toInt_mul_toInt (x := a) (y := b)
  have hhi := BitVec.toInt_mul_toInt_le (x := a) (y := b)
  exact BitVec.toInt_ofInt_eq_self (by decide) (by omega) (by omega)

/-- The unsigned product of two words fits 32 bits. -/
theorem toNat_ofNat_product (a b : BitVec 16) : (BitVec.ofNat 32 (a.toNat * b.toNat)).toNat = a.toNat * b.toNat :=
  (BitVec.toNat_ofNat ..).trans (Nat.mod_eq_of_lt BitVec.toNat_mul_toNat_lt)

/-- Settles O34: the product of two words fits the register, so narrowing it loses nothing. -/
theorem multiplies : Obligations.Multiplies := by
  intro src n s u ls a hdata hsrc
  constructor
  case left =>
    obtain ⟨t, ht, hx, hwrote, hflags⟩ := mulDiv_completes hdata hsrc (exec_eq_runForm (.mulsW ..) s) rfl
    exact ⟨t, ht, hx ▸ toInt_ofInt_product .., hwrote, hx ▸ hflags⟩
  case right =>
    obtain ⟨t, ht, hx, hwrote, hflags⟩ := mulDiv_completes hdata hsrc (exec_eq_runForm (.muluW ..) s) rfl
    exact ⟨t, ht, hx ▸ toNat_ofNat_product .., hwrote, hx ▸ hflags⟩

/-! ## Signed division (R203) -/

section
variable {a : BitVec 16} {d : Word}

theorem divsResult_zero (d : Word) : divsResult 0 d = .error (.raise .divisionByZero) := rfl

theorem divsResult_overflow (ha : a ≠ 0) (hq : d.toInt.tdiv a.toInt < -32768 ∨ 32767 < d.toInt.tdiv a.toInt) :
    divsResult a d = .error (.raise .divisionOverflow) := by
  simp only [divsResult, if_neg ha, Bool.or_eq_true, decide_eq_true_eq, if_pos hq]

theorem divsResult_fits (ha : a ≠ 0) (hlo : -32768 ≤ d.toInt.tdiv a.toInt) (hhi : d.toInt.tdiv a.toInt ≤ 32767) :
    divsResult a d = .ok
      { register := BitVec.ofInt 16 (d.toInt.tmod a.toInt) ++ BitVec.ofInt 16 (d.toInt.tdiv a.toInt)
        negative := decide (d.toInt.tdiv a.toInt < 0), zero := decide (d.toInt.tdiv a.toInt = 0) } := by
  have hfits : ¬(d.toInt.tdiv a.toInt < -32768 ∨ 32767 < d.toInt.tdiv a.toInt) := by omega
  simp only [divsResult, if_neg ha, Bool.or_eq_true, decide_eq_true_eq, if_neg hfits, Int.tmod_def,
    Int.mul_comm a.toInt]

theorem natAbs_tmod_toInt_lt (d : Int) (ha : a ≠ 0) : (d.tmod a.toInt).natAbs < a.toInt.natAbs := by
  rw [Int.natAbs_tmod]
  exact Nat.mod_lt _ (Int.natAbs_pos.2 (BitVec.toInt_ne.2 ha))

/-- A remainder of the division toward zero is zero or has the sign of the dividend. -/
theorem tmod_eq_zero_or_neg_iff (d a : Int) : d.tmod a = 0 ∨ (d.tmod a < 0 ↔ d < 0) := by
  by_cases hdvd : a ∣ d
  · exact .inl (Int.tmod_eq_zero_of_dvd hdvd)
  · have hsign := Int.sign_tmod d a
    rw [if_neg hdvd] at hsign
    exact .inr (by rw [← Int.sign_eq_neg_one_iff_neg, hsign, Int.sign_eq_neg_one_iff_neg])

/-- A remainder by a word, smaller than it, is a word. -/
theorem toInt_ofInt_tmod (d : Int) (ha : a ≠ 0) :
    (BitVec.ofInt 16 (d.tmod a.toInt)).toInt = d.tmod a.toInt := by
  have hlt := natAbs_tmod_toInt_lt d ha
  have hlo := a.le_toInt
  have hhi := a.toInt_lt
  exact BitVec.toInt_ofInt_eq_self (by decide) (by omega) (by omega)

end

/-- Settles O35: quotient and remainder fit their halves of the register, and are those of the division toward zero. -/
theorem divsDivides : Obligations.DivsDivides := by
  intro src n s u ls a hdata hsrc
  refine ⟨fun ha hlo hhi => ?fits, ?zero, fun ha hq => ?overflow⟩
  case fits =>
    obtain ⟨t, ht, hx, hwrote, hflags⟩ :=
      mulDiv_completes hdata hsrc (exec_eq_runForm (.divsW ..) s) (divsResult_fits ha hlo hhi)
    have hq : ((t.x (.data n)).extractLsb' 0 16).toInt = (u.x (.data n)).toInt.tdiv a.toInt := by
      rw [hx, BitVec.extractLsb'_append_eq_right, BitVec.toInt_ofInt_eq_self (by decide) hlo (Int.lt_add_one_iff.2 hhi)]
    have hr : ((t.x (.data n)).extractLsb' 16 16).toInt = (u.x (.data n)).toInt.tmod a.toInt := by
      rw [hx, BitVec.extractLsb'_append_eq_left, toInt_ofInt_tmod _ ha]
    exact ⟨t, _, _, ht, hq.symm, hr.symm, rfl, Int.tdiv_mul_add_tmod .., natAbs_tmod_toInt_lt _ ha,
      tmod_eq_zero_or_neg_iff .., hwrote, hflags⟩
  case zero =>
    rintro rfl
    exact mulDiv_takesFault hdata hsrc (exec_eq_runForm ..) (divsResult_zero _)
  case overflow => exact mulDiv_takesFault hdata hsrc (exec_eq_runForm ..) (divsResult_overflow ha hq)

/-! ## Unsigned division (R204) -/

section
variable {a : BitVec 16} {d : Word}

theorem divuResult_zero (d : Word) : divuResult 0 d = .error (.raise .divisionByZero) := rfl

theorem divuResult_overflow (ha : a ≠ 0) (hq : 0xFFFF < d.toNat / a.toNat) :
    divuResult a d = .error (.raise .divisionOverflow) := by
  simp only [divuResult, if_neg ha, if_pos hq]

/-- A remainder by a word, smaller than it, is a word. -/
theorem toNat_ofNat_mod (d : Nat) (ha : a ≠ 0) : (BitVec.ofNat 16 (d % a.toNat)).toNat = d % a.toNat :=
  (BitVec.toNat_ofNat ..).trans (Nat.mod_eq_of_lt ((Nat.mod_lt d (BitVec.toNat_pos_of_ne_zero ha)).trans a.isLt))

theorem divuResult_fits (ha : a ≠ 0) (hq : d.toNat / a.toNat ≤ 0xFFFF) :
    divuResult a d = .ok
      { register := BitVec.ofNat 16 (d.toNat % a.toNat) ++ BitVec.ofNat 16 (d.toNat / a.toNat)
        negative := (BitVec.ofNat 16 (d.toNat / a.toNat)).msb, zero := decide (d.toNat / a.toNat = 0) } := by
  simp only [divuResult, if_neg ha, if_neg (Nat.not_lt.2 hq)]

end

/-- Settles O36: quotient and remainder fit their halves of the register. -/
theorem divuDivides : Obligations.DivuDivides := by
  intro src n s u ls a hdata hsrc
  refine ⟨fun ha hfits => ?fits, ?zero, fun ha hq => ?overflow⟩
  case fits =>
    obtain ⟨t, ht, hx, hwrote, hflags⟩ :=
      mulDiv_completes hdata hsrc (exec_eq_runForm (.divuW ..) s) (divuResult_fits ha hfits)
    have hlow : (t.x (.data n)).extractLsb' 0 16 = BitVec.ofNat 16 ((u.x (.data n)).toNat / a.toNat) := by
      rw [hx, BitVec.extractLsb'_append_eq_right]
    have hq : ((t.x (.data n)).extractLsb' 0 16).toNat = (u.x (.data n)).toNat / a.toNat := by
      rw [hlow, BitVec.toNat_ofNat, Nat.mod_eq_of_lt (Nat.lt_succ_of_le hfits)]
    have hr : ((t.x (.data n)).extractLsb' 16 16).toNat = (u.x (.data n)).toNat % a.toNat := by
      rw [hx, BitVec.extractLsb'_append_eq_left, toNat_ofNat_mod _ ha]
    have hzero : decide ((u.x (.data n)).toNat / a.toNat = 0) = ((t.x (.data n)).extractLsb' 0 16 == 0) := by
      rw [← hq]
      exact decide_eq_decide.2 (BitVec.toNat_inj (y := 0))
    rw [← hlow, hzero] at hflags
    refine ⟨t, _, _, ht, rfl, rfl, ?_, hr ▸ Nat.mod_lt _ (BitVec.toNat_pos_of_ne_zero ha), hwrote, hflags⟩
    rw [hq, hr]
    exact Nat.div_add_mod' ..
  case zero =>
    rintro rfl
    exact mulDiv_takesFault hdata hsrc (exec_eq_runForm ..) (divuResult_zero _)
  case overflow => exact mulDiv_takesFault hdata hsrc (exec_eq_runForm ..) (divuResult_overflow ha hq)

end Sys2Proof.Machine
end

section
/-! SUPPORT. Logic, sign extension and swap (R210 to R216). -/

namespace Sys2Proof.Machine

/-! ## AND, OR, EOR -/

theorem wellFormed_and (sz : Size) (src dst : Operand) :
    (Instr.and sz src dst).wellFormed = (Shape.andOr sz src dst).admitted := by cases sz <;> rfl

theorem wellFormed_or (sz : Size) (src dst : Operand) :
    (Instr.or sz src dst).wellFormed = (Shape.andOr sz src dst).admitted := by cases sz <;> rfl

theorem wellFormed_eor (sz : Size) (src dst : Operand) :
    (Instr.eor sz src dst).wellFormed = (Shape.eor sz src dst).admitted := by cases sz <;> rfl

theorem andOr_dest_not_imm {sz : Size} {src dst : Operand} (h : (Shape.andOr sz src dst).admitted = true) :
    dst.isImm = false := (neverRefuses_andOr h).2.2

theorem eor_dest_not_imm {sz : Size} {src dst : Operand} (h : (Shape.eor sz src dst).admitted = true) :
    dst.isImm = false := (isDataAlt_not (Bool.and_eq_true_iff.1 h).2).2

/-- A bitwise operation is the arithmetic pseudocode with the computation and the flags of logic (R210). -/
theorem logicBody_eq_arithBody (sz : Size) (f : BitVec sz.bits → BitVec sz.bits → BitVec sz.bits) (src dst : Operand) :
    logicBody sz f src dst = arithBody sz (fun a b fl => logicCompute (f a b) fl) src dst := rfl

/-- What AND, OR and EOR leave, whatever they compute (R211 to R213). -/
theorem exec_logic {sz : Size} {src dst : Operand} {s u w : State} {ls ld : Loc} {a b : BitVec sz.bits}
    {f : BitVec sz.bits → BitVec sz.bits → BitVec sz.bits} {i : Instr} {sh : Shape} (hsrc : Reads src sz s ls u a)
    (hdst : Reads dst sz u ld w b) (hi : dst.isImm = false) (he : exec i s = runForm sh (logicBody sz f src dst) s)
    (hwf : i.wellFormed = true) :
    ∃ t, exec i s = .next t ∧ Wrote s w t (src.steps ++ dst.steps) ld sz (f a b) ∧
      t.flags = logicFlags (f a b) s.flags := by
  rw [logicBody_eq_arithBody] at he
  have hflags : w.flags = s.flags := (resolve_flags hdst.1).trans (resolve_flags hsrc.1)
  exact hflags ▸ exec_arith hsrc hdst hi he hwf

/-- Settles O37: one lemma for the three pseudocodes, which differ in the bitwise function alone. -/
theorem logicCombines : Obligations.LogicCombines := by
  intro sz src dst s u w ls ld a b hsrc hdst p hmem hwf
  simp only [List.mem_cons, List.not_mem_nil, or_false] at hmem
  obtain rfl | rfl | rfl := hmem
  case inl => exact exec_logic hsrc hdst (andOr_dest_not_imm (wellFormed_and sz src dst ▸ hwf)) (exec_and ..) hwf
  case inr.inl => exact exec_logic hsrc hdst (andOr_dest_not_imm (wellFormed_or sz src dst ▸ hwf)) (exec_or ..) hwf
  case inr.inr => exact exec_logic hsrc hdst (eor_dest_not_imm (wellFormed_eor sz src dst ▸ hwf)) (exec_eor ..) hwf

/-! ## One operand, modified where it stands -/

/-- The pseudocode NOT, EXT and SWAP share: read, compute, write back, advance (R148, R149). -/
def modifyBody (sz : Size) (f : BitVec sz.bits → Flags → Computed sz.bits) (dst : Operand) (s : State) : Res State := do
  let t ← modifyDest dst sz f s
  .ok t.advance

theorem exec_not_modify (sz : Size) (dst : Operand) (s : State) :
    exec (Instr.not sz dst) s
      = runForm (.unary sz dst) (modifyBody sz (fun v fl => logicCompute (~~~v) fl) dst) s := exec_not ..

theorem exec_extW_modify (dst : Operand) (s : State) :
    exec (.extW dst) s
      = runForm (.dataReg dst) (modifyBody .W (fun v fl => logicCompute ((v.setWidth 8).signExtend 16) fl) dst) s :=
  exec_eq_runForm ..

theorem exec_extL_modify (dst : Operand) (s : State) :
    exec (.extL dst) s
      = runForm (.dataReg dst) (modifyBody .L (fun v fl => logicCompute ((v.setWidth 16).signExtend 32) fl) dst) s :=
  exec_eq_runForm ..

theorem exec_swapW_modify (dst : Operand) (s : State) :
    exec (.swapW dst) s
      = runForm (.dataReg dst)
          (modifyBody .L (fun v fl => logicCompute (v.extractLsb' 0 16 ++ v.extractLsb' 16 16) fl) dst) s :=
  exec_eq_runForm ..

/-- A result written at a register location is a register written, as R23 merges it. -/
theorem wroteReg_of_wrote {s u t : State} {steps : List Reg} {r : Reg} {sz : Size} {v : BitVec sz.bits}
    (h : Wrote s u t steps (.reg r) sz v) : WroteReg s u t steps r (mergeReg r sz (u.x r) v) :=
  ⟨h.holds, fun r' hr => h.stepped r' (List.mem_singleton.not.2 hr), h.rest, h.falls⟩

section
variable {sz : Size} {f : BitVec sz.bits → Flags → Computed sz.bits} {dst : Operand} {s : State} {i : Instr} {sh : Shape}
  (hwf : i.wellFormed = true)
include hwf

/-- What an instruction that modifies one readable operand leaves, whatever it computes. -/
theorem exec_modify {w : State} {ld : Loc} {v : BitVec sz.bits} (hi : dst.isImm = false) (hdst : Reads dst sz s ld w v)
    (he : exec i s = runForm sh (modifyBody sz f dst) s) :
    ∃ t, exec i s = .next t ∧ Wrote s w t dst.steps ld sz (f v s.flags).value ∧ t.flags = (f v s.flags).flags := by
  have hbody : modifyBody sz f dst s
      = .ok ((w.putLoc ld sz (f v w.flags).value).putFlags (f v w.flags).flags).advance :=
    bind_of_ok (modifyDest_of hi hdst _) _
  rw [resolve_flags hdst.1] at hbody
  exact ⟨_, exec_completes he hbody hwf, wrote_one hdst.1 (reads_writable hi hdst) _ _, rfl⟩

/-- A data register is always readable, so modifying one completes in every state. -/
theorem exec_modify_dn {n : Fin 8} (he : exec i s = runForm sh (modifyBody sz f (.register (.data n))) s)
    {out : Computed sz.bits} (hout : f ((s.x (.data n)).setWidth sz.bits) s.flags = out) :
    ∃ t, exec i s = .next t ∧ WroteReg s s t [] (.data n) (mergeReg (.data n) sz (s.x (.data n)) out.value) ∧
      t.flags = out.flags := by
  obtain ⟨t, ht, hwrote, hflags⟩ := exec_modify hwf rfl (reads_dn n sz s) he
  rw [hout] at hwrote hflags
  exact ⟨t, ht, wroteReg_of_wrote hwrote, hflags⟩

end

/-! ## NOT -/

theorem wellFormed_not (sz : Size) (dst : Operand) :
    (Instr.not sz dst).wellFormed = (Shape.unary sz dst).admitted := by cases sz <;> rfl

/-- Settles O38: a bit vector is known by its number, and the complement's is `2 ^ bits - 1` minus the operand's. -/
theorem notInverts : Obligations.NotInverts := by
  intro sz dst s w ld v r hwf hdst hr
  have hnot : ~~~v = r := BitVec.eq_of_toNat_eq (BitVec.toNat_not.trans hr.symm)
  subst hnot
  exact exec_modify hwf (unary_dest_not_imm (wellFormed_not sz dst ▸ hwf)) hdst (exec_not_modify ..)

/-! ## EXT, SWAP -/

/-- The low bits of a register read at a size are its own low bits (R22). -/
theorem setWidth_setWidth_eq_extractLsb' {k m : Nat} (x : Word) (hkm : k ≤ m) (hm : m ≤ 32) :
    (x.setWidth m).setWidth k = x.extractLsb' 0 k := by
  rw [BitVec.setWidth_setWidth_of_le _ hkm, BitVec.setWidth_eq_extractLsb' (hkm.trans hm)]

/-- Settles O39: each modifies a data register; EXT.W writes its word under the upper word, the others the whole. -/
theorem extSwap : Obligations.ExtSwap := by
  intro n s old hold
  subst hold
  refine ⟨?extW, ?extL, ?swapW⟩
  case extW =>
    have hlow : ((s.x (.data n)).setWidth 16).setWidth 8 = (s.x (.data n)).extractLsb' 0 8 :=
      setWidth_setWidth_eq_extractLsb' _ (by decide) (by decide)
    obtain ⟨t, ht, hwrote, hflags⟩ := exec_modify_dn rfl (exec_extW_modify ..)
      (congrArg (fun low => logicCompute (low.signExtend 16) s.flags) hlow)
    exact ⟨t, _, ht, rfl, hwrote, hflags⟩
  case extL =>
    have hlow : ((s.x (.data n)).setWidth 32).setWidth 16 = (s.x (.data n)).extractLsb' 0 16 :=
      setWidth_setWidth_eq_extractLsb' _ (by decide) (by decide)
    obtain ⟨t, ht, hwrote, hflags⟩ := exec_modify_dn rfl (exec_extL_modify ..)
      (congrArg (fun low => logicCompute (low.signExtend 32) s.flags) hlow)
    exact ⟨t, _, ht, rfl, hwrote, hflags⟩
  case swapW =>
    have hread : (s.x (.data n)).setWidth 32 = s.x (.data n) := BitVec.setWidth_eq _
    obtain ⟨t, ht, hwrote, hflags⟩ := exec_modify_dn rfl (exec_swapW_modify ..)
      (congrArg (fun v => logicCompute (v.extractLsb' 0 16 ++ v.extractLsb' 16 16) s.flags) hread)
    exact ⟨t, _, ht, rfl, hwrote, hflags⟩

end Sys2Proof.Machine
end

section
/-! SUPPORT. Shifts and rotates (R225 to R232): the values and flags of the computations, then the two destinations. -/

namespace Sys2Proof.Machine

/-! ## Values (R227 to R232) -/

section
variable {w : Nat} (v : BitVec w) (c : Nat)

theorem shiftAsl_value : (shiftAsl v c).value = v <<< c :=
  congrArg (BitVec.ofNat w) (Nat.shiftLeft_eq ..).symm

theorem shiftLsl_value : (shiftLsl v c).value = v <<< c := shiftAsl_value v c

theorem ofNat_eq_of_eq_toNat {n : Nat} {r : BitVec w} (h : n = r.toNat) : BitVec.ofNat w n = r := by
  rw [h, BitVec.ofNat_toNat, BitVec.setWidth_eq]

theorem shiftLsr_value : (shiftLsr v c).value = v >>> c :=
  ofNat_eq_of_eq_toNat (Nat.shiftRight_eq_div_pow ..).symm

theorem shiftAsr_value : (shiftAsr v c).value = v.sshiftRight c := by
  have hint : v.toInt / (2 : Int) ^ c = v.toInt >>> c := by rw [Int.shiftRight_eq_div_pow]; norm_cast
  exact congrArg (BitVec.ofInt w) hint

theorem rotateLeft_zero : v.rotateLeft 0 = v := by
  simp [BitVec.rotateLeft_def, BitVec.ushiftRight_eq_zero]

theorem rotateRight_zero : v.rotateRight 0 = v := by
  simp [BitVec.rotateRight_def]

/-- The halves of a rotated word share no bit, so their sum is their union. -/
theorem rotated_add_eq_or {k : Nat} (hk : k ≤ w) :
    v.toNat * 2 ^ k % 2 ^ w + v.toNat / 2 ^ (w - k) = v.toNat <<< k % 2 ^ w ||| v.toNat >>> (w - k) := by
  have hsplit : 2 ^ w = 2 ^ (w - k) * 2 ^ k := by rw [← Nat.pow_add, Nat.sub_add_cancel hk]
  have hlow : v.toNat / 2 ^ (w - k) < 2 ^ k := Nat.div_lt_of_lt_mul (hsplit ▸ v.isLt)
  have hhigh : v.toNat * 2 ^ k % 2 ^ w = 2 ^ k * (v.toNat % 2 ^ (w - k)) := by
    rw [hsplit, Nat.mul_mod_mul_right, Nat.mul_comm]
  rw [Nat.shiftLeft_eq, Nat.shiftRight_eq_div_pow, hhigh, Nat.two_pow_add_eq_or_of_lt hlow]

variable {v c} (hw : 0 < w)
include hw

theorem shiftRol_value : (shiftRol v c).value = v.rotateLeft c :=
  ofNat_eq_of_eq_toNat (by rw [rotated_add_eq_or v (Nat.mod_lt c hw).le, BitVec.toNat_rotateLeft])

theorem shiftRor_value : (shiftRor v c).value = v.rotateRight c := by
  have hsum := rotated_add_eq_or v (Nat.sub_le w (c % w))
  rw [Nat.sub_sub_self (Nat.mod_lt c hw).le] at hsum
  exact ofNat_eq_of_eq_toNat (by rw [Nat.add_comm, hsum, Nat.or_comm, BitVec.toNat_rotateRight])

end

section
variable {w : Nat} {op : ShiftOp} {c : Nat} {v : BitVec w} {f : Flags}

theorem shiftCompute_pos (hc : 1 ≤ c) :
    shiftCompute op c v f =
      { value := (shiftBy op v c).value
        flags :=
          { x := shiftX op f.x (shiftBy op v c).lastOut, n := (shiftBy op v c).value.msb
            z := (shiftBy op v c).value = 0, v := (shiftBy op v c).overflow, c := (shiftBy op v c).lastOut } } :=
  if_neg (Nat.one_le_iff_ne_zero.1 hc)

/-- A value that is the operand for a zero count and the shifted one otherwise is the value computed (R226). -/
theorem shiftCompute_value {r : BitVec w} (hzero : c = 0 → v = r) (hpos : (shiftBy op v c).value = r) :
    (shiftCompute op c v f).value = r := by
  rcases Nat.eq_zero_or_pos c with rfl | hc
  · exact hzero rfl
  · rwa [shiftCompute_pos hc]

theorem shiftCompute_n : (shiftCompute op c v f).flags.n = (shiftCompute op c v f).value.msb := by
  rcases Nat.eq_zero_or_pos c with rfl | hc
  · rfl
  · rw [shiftCompute_pos hc]

theorem shiftCompute_z : (shiftCompute op c v f).flags.z = ((shiftCompute op c v f).value == 0) := by
  rcases Nat.eq_zero_or_pos c with rfl | hc
  · rfl
  · rw [shiftCompute_pos hc]; rfl

end

/-- Settles O42: each shift by at least one is the bit vector's, and each of those by zero is the operand. -/
theorem shiftValues : Obligations.ShiftValues := by
  intro sz v c f
  have hw := size_bits_pos sz
  refine ⟨shiftCompute_value ?shiftLeft (shiftAsl_value v c), shiftCompute_value ?shiftLeft (shiftLsl_value v c),
    shiftCompute_value ?ushiftRight (shiftLsr_value v c), shiftCompute_value ?sshiftRight (shiftAsr_value v c),
    shiftCompute_value ?rotateLeft (shiftRol_value hw), shiftCompute_value ?rotateRight (shiftRor_value hw)⟩
  case shiftLeft => rintro rfl; exact (BitVec.shiftLeft_zero v).symm
  case ushiftRight => rintro rfl; exact (BitVec.ushiftRight_zero v).symm
  case sshiftRight => rintro rfl; exact BitVec.sshiftRight_zero.symm
  case rotateLeft => rintro rfl; exact (rotateLeft_zero v).symm
  case rotateRight => rintro rfl; exact (rotateRight_zero v).symm

/-! ## Flags (R226 to R232) -/

section
variable {w : Nat} {v : BitVec w} {c : Nat}

section
variable (hc : 1 ≤ c)
include hc

theorem shiftAsl_lastOut : (shiftAsl v c).lastOut = (v <<< (c - 1)).msb := by
  show outOfTop v c = _
  have hlt : c ≤ w ↔ c - 1 < w := by omega
  have hbit : w - c = w - 1 - (c - 1) := by omega
  simp [outOfTop, BitVec.msb_shiftLeft, BitVec.getMsbD_eq_getLsbD, hlt, hbit]

theorem shiftAsr_lastOut : (shiftAsr v c).lastOut = (v.sshiftRight (c - 1)).getLsbD 0 := by
  show (if c ≤ w then v.getLsbD (c - 1) else v.msb) = _
  rcases Nat.eq_zero_or_pos w with rfl | hw
  · simp [Subsingleton.elim v 0#0]
  · have hle : c ≤ w ↔ c - 1 < w := by omega
    simp [BitVec.getLsbD_sshiftRight, hle, Nat.not_le.2 hw]

theorem shiftLsr_lastOut : (shiftLsr v c).lastOut = (v >>> (c - 1)).getLsbD 0 := by
  show (if c ≤ w then v.getLsbD (c - 1) else false) = _
  split
  · simp [BitVec.getLsbD_ushiftRight]
  · have hge : w ≤ c - 1 := by omega
    simp [BitVec.getLsbD_ushiftRight, BitVec.getLsbD_of_ge v _ hge]

end

section
variable (hw : 0 < w)
include hw

theorem shiftRol_lastOut : (shiftRol v c).lastOut = (v.rotateLeft c).getLsbD 0 :=
  congrArg (BitVec.getLsbD · 0) (shiftRol_value hw)

theorem shiftRor_lastOut : (shiftRor v c).lastOut = (v.rotateRight c).msb :=
  congrArg BitVec.msb (shiftRor_value hw)

end

/-- A word whose every bit, and the zero shifted in below it, equals its sign is zero. -/
theorem eq_zero_of_msb_const (h : ∀ k ≤ w, (v <<< k).msb = v.msb) : v = 0 := by
  have hmsb : v.msb = false := by rw [← h w le_rfl, BitVec.shiftLeft_eq_zero le_rfl, BitVec.msb_zero]
  refine BitVec.eq_of_getMsbD_eq fun k hk => ?_
  rw [← BitVec.msb_shiftLeft, h k hk.le, hmsb]
  exact BitVec.getMsbD_zero.symm

/-- Bit `w-1-k` is the sign of `v` shifted by `k`; a shift by the width or more also sees the zero that enters (R227). -/
theorem signChanged_iff : signChanged v c = true ↔ ∃ k ≤ c, (v <<< k).msb ≠ v.msb := by
  by_cases hcw : c < w
  · have hbit : ∀ k ≤ c, (v <<< k).msb = v.getLsbD (w - 1 - k) := fun k hk => by
      simp [BitVec.msb_shiftLeft, BitVec.getMsbD_eq_getLsbD, Nat.lt_of_le_of_lt hk hcw]
    simp only [signChanged, if_pos hcw, Bool.not_eq_true', List.all_eq_false, List.mem_range, Nat.lt_succ_iff, beq_iff_eq]
    exact exists_congr fun k => and_congr_right fun hk => by rw [hbit k hk]
  · have hnz : signChanged v c = (v != 0) := if_neg hcw
    rw [hnz, bne_iff_ne]
    constructor
    · contrapose!
      exact fun h => eq_zero_of_msb_const fun k hk => h k (by omega)
    · rintro ⟨k, -, hne⟩ rfl
      simp at hne

end

/-- Only ASL can set `V` (R227 to R232). -/
theorem shiftBy_overflow {w : Nat} (op : ShiftOp) (v : BitVec w) (c : Nat) :
    (shiftBy op v c).overflow = true ↔ op = .asl ∧ signChanged v c = true := by
  cases op <;> simp [shiftBy, shiftAsl, shiftAsr, shiftLsl, shiftLsr, shiftRol, shiftRor]

/-- Settles O43: for a count of at least one the flags are read off `shiftBy`, whose `lastOut` and `overflow` are stated
above for each operation. -/
theorem shiftFlags : Obligations.ShiftFlags := by
  intro sz v c f op
  have hw := size_bits_pos sz
  refine ⟨shiftCompute_n, shiftCompute_z, ?zeroCount, fun hc => ?_⟩
  case zeroCount => rintro rfl; exact ⟨rfl, rfl, rfl⟩
  rw [shiftCompute_pos hc]
  refine ⟨?carry, ?extend, ?overflow⟩
  case carry =>
    cases op
    case asl => exact shiftAsl_lastOut hc
    case asr => exact shiftAsr_lastOut hc
    case lsl => exact shiftAsl_lastOut hc
    case lsr => exact shiftLsr_lastOut hc
    case rol => exact shiftRol_lastOut hw
    case ror => exact shiftRor_lastOut hw
  case extend => cases op <;> rfl
  case overflow => exact (shiftBy_overflow op v c).trans (and_congr_right fun _ => signChanged_iff)

/-! ## A register and a memory word (R225) -/

theorem wellFormed_shifted (op : ShiftOp) (sz : Size) (args : ShiftArgs) :
    (Instr.shifted op sz args).wellFormed = (Shape.shift sz args).admitted := by cases op <;> cases sz <;> rfl

theorem runForm_congr {sh : Shape} {body body' : State → Res State} {s : State} (h : body s = body' s) :
    runForm sh body s = runForm sh body' s := by
  unfold runForm
  rw [h]

/-- Once the count is read, the register form is the pseudocode that modifies one operand. -/
theorem exec_shifted_counted (op : ShiftOp) (sz : Size) {count dst : Operand} {s : State} {c : Nat}
    (hc : shiftCount count s = .ok c) :
    exec (Instr.shifted op sz (.counted count dst)) s
      = runForm (.shift sz (.counted count dst)) (modifyBody sz (shiftCompute op c) dst) s :=
  (exec_shifted ..).trans (runForm_congr (bind_of_ok hc _))

theorem exec_shifted_memory (op : ShiftOp) (sz : Size) (dst : Operand) (s : State) :
    exec (Instr.shifted op sz (.memory dst)) s
      = runForm (.shift sz (.memory dst)) (modifyBody sz (shiftCompute op 1) dst) s := exec_shifted ..

/-- A small constant is the same number signed and unsigned. -/
theorem isImmIn_one_eight {k : Word} (hlo : 1 ≤ k.toNat) (hhi : k.toNat ≤ 8) :
    (Operand.immediate k).isImmIn 1 8 = true := by
  have hk : k.toInt = k.toNat := BitVec.toInt_eq_toNat_of_lt (by omega)
  exact isImmIn_iff.2 ⟨k, rfl, by omega, by omega⟩

/-- Settles O40: both counts are read in every state, and a data register is always readable. -/
theorem shiftRegister : Obligations.ShiftRegister := by
  rintro op sz count n s c v hcount rfl
  obtain ⟨hread, hform⟩ : shiftCount count s = .ok c ∧ (count.isImmIn 1 8 || count.isDn) = true := by
    rcases hcount with ⟨k, rfl, hlo, hhi, rfl⟩ | ⟨m, rfl, rfl⟩
    · exact ⟨rfl, by rw [isImmIn_one_eight hlo hhi, Bool.true_or]⟩
    · exact ⟨rfl, rfl⟩
  have hwf : (Instr.shifted op sz (.counted count (.register (.data n)))).wellFormed = true := by
    rw [wellFormed_shifted]
    exact Bool.and_eq_true_iff.2 ⟨hform, rfl⟩
  exact exec_modify_dn hwf (exec_shifted_counted op sz hread) rfl

/-- Settles O41: the memory form modifies the word where it stands, by the count one. -/
theorem shiftMemory : Obligations.ShiftMemory := by
  intro op dst s w ld v hmem hdst
  have hwf : (Instr.shifted op .W (.memory dst)).wellFormed = true := by
    rw [wellFormed_shifted]
    exact Bool.and_eq_true_iff.2 ⟨rfl, hmem⟩
  exact exec_modify hwf (isMemAlt_not hmem).2 hdst (exec_shifted_memory ..)

end Sys2Proof.Machine
end

section
/-! SUPPORT. The single-bit instructions (R240 to R244): the bit they change, and what they leave beside it. -/

namespace Sys2Proof.Machine

/-! ## The operand after the instruction (R241 to R244) -/

theorem getLsbD_bitResult {w k : Nat} (hk : k < w) (op : BitOp) (v : BitVec w) (j : Nat) :
    (bitResult op k v).getLsbD j = if j = k then bitAfter op (v.getLsbD k) else v.getLsbD j := by
  by_cases hj : j = k
  · subst hj
    rw [if_pos rfl]
    cases op <;> simp [bitResult, bitAfter, hk]
  · have hother : (BitVec.twoPow w k).getLsbD j = false := by simp [Ne.symm hj]
    rw [if_neg hj]
    cases op with
    | tst => rfl
    | chg => simp only [bitResult, BitVec.getLsbD_xor, hother, Bool.xor_false]
    | clr =>
      simp only [bitResult, BitVec.getLsbD_and, BitVec.getLsbD_not, hother, Bool.not_false, Bool.and_true]
      exact Bool.and_eq_left_iff_imp.2 fun hbit => decide_eq_true (BitVec.lt_of_getLsbD hbit)
    | set => simp only [bitResult, BitVec.getLsbD_or, hother, Bool.or_false]

/-! ## The instructions -/

theorem wellFormed_bitOnReg (op : BitOp) (bitnum dst : Operand) :
    (Instr.bitOnReg op bitnum dst).wellFormed = (Shape.bit .L bitnum dst).admitted := by cases op <;> rfl

/-- A bit number as the statements give it reads in every state, and stands in the table of admitted forms (R240). -/
theorem bitNumber_of {bitnum : Operand} {s : State} {num : Word}
    (h : bitnum = .immediate num ∨ ∃ m, bitnum = .register (.data m) ∧ num = s.x (.data m)) :
    numberOf bitnum s = .ok num ∧ (bitnum.isImm || bitnum.isDn) = true := by
  rcases h with rfl | ⟨m, rfl, rfl⟩ <;> exact ⟨rfl, rfl⟩

/-- All but BTST write their result back (R240). -/
theorem bitWriteBack_eq_writeLoc {op : BitOp} (h : op ≠ .tst) : bitWriteBack op = writeLoc := by
  cases op
  · exact absurd rfl h
  all_goals rfl

theorem writable_putFlags {l : Loc} {sz : Size} {s : State} (h : l.writable sz s) (f : Flags) :
    l.writable sz (s.putFlags f) := by
  cases l <;> exact h

/-- `wrote_one` where the flags are written before the location, as R240 orders them. -/
theorem wrote_after_flags {dst : Operand} {sz : Size} {s w : State} {ld : Loc} (hd : resolve dst sz s = .ok (ld, w))
    (hw : ld.writable sz w) (v : BitVec sz.bits) (f : Flags) :
    Wrote s w ((w.putFlags f).putLoc ld sz v).advance dst.steps ld sz v := by
  obtain ⟨od, -, -, pd, cd⟩ := resolve_onlyChanges hd
  have hp := putLoc_onlyChanges (w.putFlags f) ld sz v
  have hh := putLoc_holds (writable_putFlags hw f) v
  refine ⟨?holds, fun r hr => ?stepped, ?rest, ?pc, ?callStack⟩
  case holds =>
    cases ld with
    | imm _ => exact hh
    | reg r => simpa only [Loc.holds, advance_x, putFlags_x] using hh
    | mem _ => exact hh
  case stepped => simpa using hp.regs r hr
  case rest =>
    refine onlyChanges_mono (onlyChanges_trans od (onlyChanges_trans (onlyChanges_putFlags w f)
      (onlyChanges_trans hp (onlyChanges_advance _)))) ?_ ?_
    · intro r; simp
    · intro b; simp [noByte]
  case pc => simp [pd]
  case callStack => simp [cd]

/-- What a bit instruction leaves where its operand reads: BTST the flags alone, the others also their result (R240). -/
theorem exec_bit {op : BitOp} {sz : Size} {bitnum dst : Operand} {s w : State} {ld : Loc} {num : Word} {k : Nat}
    {old : BitVec sz.bits} {i : Instr} {sh : Shape} (hnum : numberOf bitnum s = .ok num) (hk : k = num.toNat % sz.bits)
    (hdst : Reads dst sz s ld w old) (hi : dst.isImm = false)
    (he : exec i s = runForm sh (bitBody op sz bitnum dst) s) (hwf : i.wellFormed = true) :
    ∃ t, exec i s = .next t ∧ t.flags = { s.flags with z := !old.getLsbD k } ∧
      (op = .tst → WroteNothing s w t dst.steps) ∧ (op ≠ .tst → Wrote s w t dst.steps ld sz (bitResult op k old)) := by
  subst hk
  have hflags := resolve_flags hdst.1
  have hread : bitBody op sz bitnum dst s
      = bitWriteBack op ld sz (bitResult op (num.toNat % sz.bits) old)
          (w.putFlags { s.flags with z := !old.getLsbD (num.toNat % sz.bits) }) >>= fun u => .ok u.advance := by
    rw [← hflags]
    exact (bind_of_ok hnum _).trans ((bind_of_ok hdst.1 _).trans (bind_of_ok hdst.2 _))
  by_cases hop : op = .tst
  · subst hop
    exact ⟨_, exec_completes he hread hwf, rfl, fun _ => wroteNothing_one hdst.1 _, fun h => absurd rfl h⟩
  · have hw := reads_writable hi hdst
    rw [bitWriteBack_eq_writeLoc hop, bind_of_ok (writeLoc_eq_ok.2 ⟨writable_putFlags hw _, rfl⟩)] at hread
    exact ⟨_, exec_completes he hread hwf, by simp, fun h => absurd h hop, fun _ => wrote_after_flags hdst.1 hw _ _⟩

/-- Writing nothing leaves a register its content. -/
theorem wroteReg_of_wroteNothing {s u t : State} {steps : List Reg} (h : WroteNothing s u t steps) (r : Reg) :
    WroteReg s u t steps r (u.x r) :=
  ⟨h.stepped r, fun r' _ => h.stepped r', onlyChanges_mono h.rest (fun _ => List.mem_append_left _) fun _ => id, h.falls⟩

/-- Settles O44: BTST leaves the register, the others write it whole; either way it holds `bitResult`. -/
theorem bitOnRegister : Obligations.BitOnRegister := by
  intro op bitnum n s num k old hbit hk hold
  obtain ⟨hnum, hform⟩ := bitNumber_of hbit
  have hwf : (Instr.bitOnReg op bitnum (.register (.data n))).wellFormed = true := by
    rw [wellFormed_bitOnReg]
    exact Bool.and_eq_true_iff.2 ⟨hform, rfl⟩
  have hdst : Reads (.register (.data n)) .L s (.reg (.data n)) s old := by
    rw [hold, ← BitVec.setWidth_eq (s.x (.data n))]
    exact reads_dn n .L s
  have hlt : k < 32 := hk ▸ Nat.mod_lt _ (by decide)
  obtain ⟨t, ht, hflags, htst, hwrote⟩ := exec_bit hnum hk hdst rfl (exec_bitOnReg ..) hwf
  have hreg : WroteReg s s t [] (.data n) (bitResult op k old) := by
    by_cases hop : op = .tst
    · have hsame := wroteReg_of_wroteNothing (htst hop) (.data n)
      subst hop
      exact hold ▸ hsame
    · exact wroteReg_of_wrote (hwrote hop)
  refine ⟨t, ht, hflags, fun j => ?_, hreg.value.symm ▸ hreg⟩
  rw [hreg.value]
  exact getLsbD_bitResult hlt op old j

/-- Settles O45: a byte that reads can be written, and the byte written is `bitResult`. -/
theorem bitOnByte : Obligations.BitOnByte := by
  intro op bitnum dst s w ld num k old hbit hk hmem hdst
  obtain ⟨hnum, hform⟩ := bitNumber_of hbit
  have hwf : (Instr.bitOnByte op bitnum dst).wellFormed = true := by
    rw [wellFormed_bitOnByte]
    exact Bool.and_eq_true_iff.2 ⟨hform, hmem⟩
  have hlt : k < 8 := hk ▸ Nat.mod_lt _ (by decide)
  obtain ⟨t, ht, hflags, hleaves⟩ := exec_bit hnum hk hdst (isMemAlt_not hmem).2 (exec_bitOnByte ..) hwf
  exact ⟨t, bitResult op k old, ht, hflags, getLsbD_bitResult hlt op old, hleaves⟩

end Sys2Proof.Machine
end

section
/-! SUPPORT. Branches, DBcc, Scc and the return (R250 to R252, R255 to R257). -/

namespace Sys2Proof.Machine

/-! ## Bcc and BRA -/

theorem onlyJumps_jump (s : State) (p : Word) : OnlyJumps s (s.jump p) := ⟨onlyChanges_jump s p, rfl, rfl⟩

theorem onlyJumps_advance (s : State) : OnlyJumps s s.advance := ⟨onlyChanges_advance s, rfl, rfl⟩

/-- A branch target is always known, so a Bcc completes in every state (R251). -/
theorem exec_branchOn_target (k : Cond) (target : Word) (s : State) :
    exec (Instr.branchOn k (.address target)) s = .next (if cond k s.flags then s.jump target else s.advance) :=
  (exec_branchOn ..).trans (runForm_ok rfl rfl)

theorem exec_bra_target (target : Word) (s : State) : exec (.bra (.address target)) s = .next (s.jump target) :=
  exec_of_body rfl rfl

/-- Settles O46: the truth of each condition is its definition; a branch is a jump or the sequential advance. -/
theorem branches : Obligations.Branches := by
  rintro target s f rfl
  refine ⟨?truth, fun k => ⟨_, exec_branchOn_target k target s, ?pc, ?rest⟩,
    ⟨_, exec_bra_target target s, rfl, onlyJumps_jump s target⟩⟩
  case truth => simp [cond]
  case pc => split <;> rfl
  case rest =>
    split
    · exact onlyJumps_jump s target
    · exact onlyJumps_advance s

/-! ## RTS -/

theorem pop32_of_fault {s : State} {f : Fault} (h : s.accessFault (s.x .sp) .L = some f) :
    pop32 s = .error (.raise f) :=
  bind_of_error (memory_of_check (checkAccess_of_fault h)).1 _

/-- Settles O48: `State.returned` is the popped state; the pop is the only access. -/
theorem returnPops : Obligations.ReturnPops := by
  intro s
  refine ⟨fun h => ⟨_, exec_rts h, rfl, ?sp, onlyChanges_returned s, ?flags, ?callStack⟩,
    fun f hf => exec_takesFault (exec_eq_runForm ..) (bind_of_error (pop32_of_fault hf) _) rfl⟩
  all_goals simp [State.returned]

/-! ## DBcc -/

/-- The low word of a register, counted down by one modulo `2^16` (R256). -/
theorem setWidth_sub_one_eq {x : Word} {w : BitVec 16} (h : w.toNat = (x.toNat % 2 ^ 16 + 0xFFFF) % 2 ^ 16) :
    x.setWidth 16 - 1 = w := by
  refine BitVec.eq_of_toNat_eq ?_
  rw [h, BitVec.toNat_sub, BitVec.toNat_setWidth]
  exact congrArg (· % 2 ^ 16) (Nat.add_comm ..)

/-- The state after the counter of a DBcc takes the word `w` (R256). -/
def State.counted (s : State) (n : Fin 8) (w : BitVec 16) : State :=
  s.putReg (.data n) ((s.x (.data n)).extractLsb' 16 16 ++ w) .W

section
variable {k : Cond} {n : Fin 8} {target : Word} {s : State} {w : BitVec 16}

theorem exec_decBranchOn_of_body {t : State}
    (h : decBranchBody k (.register (.data n)) (.address target) s = .ok t) :
    exec (Instr.decBranchOn k (.register (.data n)) (.address target)) s = .next t :=
  (exec_decBranchOn ..).trans (runForm_ok rfl h)

theorem decBranchBody_of_true (h : cond k s.flags = true) :
    decBranchBody k (.register (.data n)) (.address target) s = .ok s.advance := if_pos h

theorem decBranchBody_of_false (h : cond k s.flags = false) (hw : (s.x (.data n)).setWidth 16 - 1 = w) :
    decBranchBody k (.register (.data n)) (.address target) s
      = .ok (if w = 0xFFFF then (s.counted n w).advance else (s.counted n w).jump target) := by
  subst hw
  exact if_neg (Bool.eq_false_iff.1 h)

/-- A branch with the condition false counts, then goes on to the next entry or to the target (R256). -/
theorem exec_decBranchOn_of_false (hk : cond k s.flags = false) (hw : (s.x (.data n)).setWidth 16 - 1 = w) :
    ∃ t, exec (Instr.decBranchOn k (.register (.data n)) (.address target)) s = .next t ∧
      t.pc = (if w = 0xFFFF then s.pc + 4 else target) ∧ OnlyJumps (s.counted n w) t := by
  refine ⟨_, exec_decBranchOn_of_body (decBranchBody_of_false hk hw), ?_⟩
  split
  · exact ⟨rfl, onlyJumps_advance _⟩
  · exact ⟨rfl, onlyJumps_jump ..⟩

end

/-- Settles O50: with the condition true the pseudocode only advances; with it false it counts first. -/
theorem dbccCounts : Obligations.DbccCounts := by
  intro k n target s w hw
  refine ⟨fun hk => ⟨_, exec_decBranchOn_of_body (decBranchBody_of_true hk), rfl, onlyJumps_advance s⟩, fun hk => ?_⟩
  obtain ⟨t, ht, hpc, hrest, hflags, hcalls⟩ := exec_decBranchOn_of_false hk (setWidth_sub_one_eq hw)
  refine ⟨t, ht, hpc, (hrest.regs _ nofun).trans (by simp [State.counted]),
    onlyChanges_mono (onlyChanges_trans (onlyChanges_putReg ..) hrest) (by simp) (by simp [noByte]), hflags, hcalls⟩

/-! ## Scc -/

/-- A location written after one operand was resolved, no flag. -/
theorem wrote_quiet {dst : Operand} {sz : Size} {s w : State} {ld : Loc} (hd : resolve dst sz s = .ok (ld, w))
    (hw : ld.writable sz w) (v : BitVec sz.bits) : Wrote s w (w.putLoc ld sz v).advance dst.steps ld sz v := by
  obtain ⟨hresolve, -, -, hpc, hcalls⟩ := resolve_onlyChanges hd
  have hput := putLoc_onlyChanges w ld sz v
  have hholds := putLoc_holds hw v
  refine ⟨?holds, fun r hr => ?stepped, ?rest, by simp [hpc], by simp [hcalls]⟩
  case holds =>
    cases ld with
    | imm _ => exact hholds
    | reg r => simpa only [Loc.holds, advance_x] using hholds
    | mem _ => exact hholds
  case stepped => simpa using hput.regs r hr
  case rest =>
    exact onlyChanges_mono (onlyChanges_trans hresolve (onlyChanges_trans hput (onlyChanges_advance _))) (by simp)
      (by simp [noByte])

/-- Settles O51: the condition is read before the destination is resolved, and resolving changes no flag. -/
theorem sccSets : Obligations.SccSets := by
  intro k dst s w ld hdst hresolve hw
  have hbody := bind_of_ok (writeDest_of hresolve hw (if cond k s.flags then 0xFF else 0)) fun t => .ok t.advance
  refine ⟨_, (exec_setOn ..).trans (runForm_ok hdst hbody), wrote_quiet hresolve hw _, ?_⟩
  rw [advance_flags, putLoc_flags, resolve_flags hresolve]

end Sys2Proof.Machine
end

section
/-! SUPPORT. LEA, PEA, LINK, UNLK (R275 to R278). -/

namespace Sys2Proof.Machine

/-! ## LEA and PEA -/

/-- Settles O52: LEA writes a register, PEA is a push and the sequential advance. -/
theorem leaPea : Obligations.LeaPea := by
  intro src s ea hctrl hea
  have hpea : (Instr.peaL src).wellFormed = true := hctrl
  refine ⟨fun n => ⟨(s.putReg (.addr n) ea .L).advance, exec_of_body ?lea (bind_of_ok hea _),
      wroteReg_quiet (src := .immediate ea) (sz := .L) rfl .., rfl⟩,
    fun h => ⟨(s.pushed ea).advance, exec_of_body hpea ((bind_of_ok hea _).trans (bind_of_ok (push32_of_accessible h) _)),
      ?sp, pushed_readBytes .., ?rest, ⟨?pc, ?callStack⟩, ?flags⟩,
    fun f hf => exec_takesFault (exec_eq_runForm ..) ((bind_of_ok hea _).trans (bind_of_error (push32_of_fault hf) _)) hpea⟩
  case lea => exact Bool.and_eq_true_iff.2 ⟨hctrl, rfl⟩
  case rest =>
    exact onlyChanges_mono (onlyChanges_trans (onlyChanges_pushed ..) (onlyChanges_advance _)) (by simp) (by simp [noByte])
  case pc => simp [State.pushed]
  all_goals simp

/-! ## LINK and UNLK -/

/-- The state LINK answers (R277). -/
def State.linked (s : State) (n : Fin 8) (v : Word) : State :=
  (((s.pushed (s.x (.addr n))).putReg (.addr n) (s.x .sp - 4) .L).putReg .sp (s.x .sp - 4 + v) .L).advance

/-- The state UNLK answers (R278). -/
def State.unlinked (s : State) (n : Fin 8) : State :=
  (((s.putReg .sp (s.x (.addr n)) .L).putReg .sp (s.x (.addr n) + 4) .L).putReg (.addr n)
    (valueOf .L (s.mem.readBytes (s.x (.addr n)).toNat 4)) .L).advance

section
variable {n : Fin 8} (hn : n ≠ 7)
include hn

theorem link_wellFormed (v : Word) : (Instr.link (.register (.addr n)) (.immediate v)).wellFormed = true :=
  Bool.and_eq_true_iff.2 ⟨isFrameReg_iff.2 ⟨n, rfl, hn⟩, rfl⟩

theorem unlk_wellFormed : (Instr.unlk (.register (.addr n))).wellFormed = true := isFrameReg_iff.2 ⟨n, rfl, hn⟩

section
variable {s : State} {v : Word}

theorem exec_link (h : s.accessible (s.x .sp - 4) .L) :
    exec (.link (.register (.addr n)) (.immediate v)) s = .next (s.linked n v) := by
  refine exec_of_body (link_wellFormed hn v) ((bind_of_ok (push32_of_accessible h) _).trans ?_)
  have hne : Reg.sp ≠ .addr n := by simpa using hn.symm
  simp [State.linked, hne]

theorem exec_link_faults {f : Fault} (h : s.accessFault (s.x .sp - 4) .L = some f) :
    exec (.link (.register (.addr n)) (.immediate v)) s = .next (takeFault f s) :=
  exec_takesFault (exec_eq_runForm ..) (bind_of_error (push32_of_fault h) _) (link_wellFormed hn v)

/-- The pop of UNLK reads at the frame register. -/
theorem exec_unlk (h : s.accessible (s.x (.addr n)) .L) :
    exec (.unlk (.register (.addr n))) s = .next (s.unlinked n) := by
  have hpop := pop32_eq_ok.2 ⟨(accessible_congr (putReg_options s .sp (s.x (.addr n)) .L)).2 (by simpa using h), rfl⟩
  refine exec_of_body (unlk_wellFormed hn) ((bind_of_ok hpop _).trans ?_)
  simp [State.unlinked]

theorem exec_unlk_faults {f : Fault} (h : s.accessFault (s.x (.addr n)) .L = some f) :
    exec (.unlk (.register (.addr n))) s = .next (takeFault f s) := by
  have hpop := pop32_of_fault ((accessFault_congr (putReg_options s .sp (s.x (.addr n)) .L)).trans (by simpa using h))
  exact exec_takesFault (exec_eq_runForm ..) (bind_of_error hpop _) (unlk_wellFormed hn)

end

end

section
variable (s : State) (n : Fin 8) (v : Word)

theorem linked_readBytes : (s.linked n v).mem.readBytes (s.x .sp - 4).toNat 4 = bytesOf .L (s.x (.addr n)) := by
  have hmem : (s.linked n v).mem = (s.pushed (s.x (.addr n))).mem := by simp [State.linked]
  rw [hmem, pushed_readBytes]

theorem onlyChanges_linked : OnlyChanges s (s.linked n v) [.addr n, .sp] (within (s.x .sp - 4) 4) :=
  onlyChanges_mono (onlyChanges_trans (onlyChanges_pushed ..) (onlyChanges_trans (onlyChanges_putReg ..)
    (onlyChanges_trans (onlyChanges_putReg ..) (onlyChanges_advance _)))) (by simp) (by simp [noByte])

theorem onlyChanges_unlinked : OnlyChanges s (s.unlinked n) [.addr n, .sp] noByte :=
  onlyChanges_mono (onlyChanges_trans (onlyChanges_putReg ..) (onlyChanges_trans (onlyChanges_putReg ..)
    (onlyChanges_trans (onlyChanges_putReg ..) (onlyChanges_advance _)))) (by simp) (by simp [noByte])

theorem linked_x_sp : (s.linked n v).x .sp = s.x .sp - 4 + v := by simp [State.linked]

theorem unlinked_x_frame : (s.unlinked n).x (.addr n) = valueOf .L (s.mem.readBytes (s.x (.addr n)).toNat 4) := by
  simp [State.unlinked]

section
variable {n} (hn : n ≠ 7)
include hn

theorem linked_x_frame : (s.linked n v).x (.addr n) = s.x .sp - 4 := by simp [State.linked, hn]

theorem unlinked_x_sp : (s.unlinked n).x .sp = s.x (.addr n) + 4 := by
  have hne : Reg.sp ≠ .addr n := by simpa using hn.symm
  simp [State.unlinked, hne]

/-- UNLK finds at the frame register the value LINK pushed, and the stack pointer from before the push above it. -/
theorem linked_unlinked_x (r : Reg) : ((s.linked n v).unlinked n).x r = s.x r := by
  have hframe := linked_x_frame s v hn
  by_cases hr : r = .addr n
  · rw [hr, unlinked_x_frame, hframe, linked_readBytes, valueOf_bytesOf]
  · by_cases hsp : r = .sp
    · rw [hsp, unlinked_x_sp _ hn, hframe]
      simp
    · have hother : r ∉ [.addr n, .sp] := by simp [hr, hsp]
      rw [(onlyChanges_unlinked _ n).regs r hother, (onlyChanges_linked s n v).regs r hother]

end

end

/-- Settles O53: LINK answers `State.linked` and UNLK `State.unlinked`; the push and the pop are their only accesses. -/
theorem linkUnlk : Obligations.LinkUnlk := by
  intro n v s hn
  refine ⟨fun h => ?link, fun h => ?unlk, fun f hf => exec_link_faults hn hf, fun f hf => exec_unlk_faults hn hf⟩
  case link =>
    have hpop : (s.linked n v).accessible ((s.linked n v).x (.addr n)) .L := by
      rw [linked_x_frame s v hn]
      exact (accessible_congr (onlyChanges_linked s n v).options).2 h
    refine ⟨_, exec_link hn h, linked_x_frame s v hn, linked_x_sp .., linked_readBytes .., onlyChanges_linked ..,
      ⟨?_, ?_⟩, ?_, _, exec_unlk hn hpop, linked_unlinked_x s v hn⟩ <;> simp [State.linked, State.pushed]
  case unlk =>
    refine ⟨_, exec_unlk hn h, unlinked_x_sp s hn, unlinked_x_frame .., onlyChanges_unlinked .., ⟨?_, ?_⟩, ?_⟩ <;>
      simp [State.unlinked]

end Sys2Proof.Machine
end

section
/-! SUPPORT. The tasks of TRAP #15 and the host's answer (R290 to R305, R316). -/

namespace Sys2Proof.Machine

/-! ## TRAP #15 -/

theorem trapBody_vector (s : State) :
    trapBody (.immediate 15) s = trapTask (s.x (.data 0)).toNat s >>= fun t => .ok t.advance :=
  (bind_of_ok (rfl : immOf (.immediate 15) = .ok 15) _).trans (if_pos rfl)

section
variable {s t : State} {task : Nat} (htask : (s.x (.data 0)).toNat = task)
include htask

/-- A task that answers a state. -/
theorem exec_trap_of_task (h : trapTask task s = .ok t) : exec (.trap (.immediate 15)) s = .next t.advance := by
  subst htask
  exact exec_of_body rfl ((trapBody_vector s).trans (bind_of_ok h _))

/-- A task that raises a fault. -/
theorem exec_trap_of_fault {f : Fault} (h : trapTask task s = .error (.raise f)) :
    exec (.trap (.immediate 15)) s = .next (takeFault f s) := by
  subst htask
  exact exec_takesFault (exec_eq_runForm ..) ((trapBody_vector s).trans (bind_of_error h _)) rfl

end

/-- The string tasks: the bytes are read when the trap runs, their number is the low word of `D1` (R291, R292). -/
theorem trapTask_string {s : State} {task : Nat} {record : List Byte → Interrupt}
    (h : (task, record) ∈ [(0, Interrupt.displayStringWithCRLF), (1, Interrupt.displayStringWithoutCRLF)]) :
    trapTask task s = memReadBytes (s.x (.addr 1)) ((s.x (.data 1)).toNat % 2 ^ 16) s >>= fun bytes =>
      .ok (s.enterInterrupt (record bytes)) := by
  rw [← BitVec.toNat_setWidth]
  rcases List.mem_pair.1 h with h | h <;> cases h <;> rfl

/-- The tasks that are not listed (R300, D23). -/
theorem trapTask_unlisted {task : Nat} (h : task = 7 ∨ 10 ≤ task) (s : State) :
    trapTask task s = .error (.raise .illegalInstruction) := by
  rcases h with rfl | h
  · rfl
  · obtain ⟨k, rfl⟩ := Nat.exists_eq_add_of_le' h
    rfl

theorem memReadBytes_of_outside {addr : Word} {n : Nat} {s : State} (hn : 0 < n) (h : s.options.memSize < addr.toNat + n) :
    memReadBytes addr n s = .error (.raise .addressOutOfBounds) := by
  refine if_neg fun hb => ?_
  have := inBounds_le hb hn.ne'
  omega

theorem inBounds_of_le {addr : Word} {n : Nat} {s : State} (h : n = 0 ∨ addr.toNat + n ≤ s.options.memSize) :
    s.inBounds addr n = true := by
  simpa [State.inBounds] using h

/-- Settles O56: each task is an equation of `trapTask`; the trap itself adds the advance. -/
theorem trapTasks : Obligations.TrapTasks := by
  rintro s _ _ _ _ rfl rfl rfl rfl
  refine ⟨?asks, fun p hp htask => ⟨fun hin => ?string, fun hpos hout => ?outside⟩, fun htask => ?ends,
    fun htask => exec_trap_of_fault rfl (trapTask_unlisted htask s)⟩
  case asks =>
    have hchar : (s.x (.data 1)).extractLsb' 0 8 = (s.x (.data 1)).setWidth 8 :=
      (BitVec.setWidth_eq_extractLsb' (by decide)).symm
    rw [hchar]
    simp only [List.forall_mem_cons, List.not_mem_nil, false_implies, implies_true, and_true]
    refine ⟨?_, ?_, ?_, ?_, ?_, ?_⟩
    all_goals exact fun htask => exec_trap_of_task htask rfl
  case string =>
    have hread := memReadBytes_eq_ok.2 ⟨inBounds_of_le hin, rfl⟩
    exact exec_trap_of_task htask ((trapTask_string hp).trans (bind_of_ok hread _))
  case outside =>
    have hread := memReadBytes_of_outside hpos hout
    exact exec_trap_of_fault htask ((trapTask_string hp).trans (bind_of_error hread _))
  case ends => exact exec_trap_of_task htask rfl

/-! ## The result of an answer (R303) -/

/-- The state after the result of an answer is applied. -/
def State.answered (s : State) : InterruptResult → State
  | .displayStringWithCRLF | .displayStringWithoutCRLF | .displayNumber | .displayChar => s
  | .readNumber n | .getTime n => s.putReg (.data 1) n .L
  | .readChar c => s.putReg (.data 1) ((s.x (.data 1)).extractLsb' 8 24 ++ c) .B
  | .readKeyboardString bs =>
    (s.storeBytes (s.x (.addr 1)) (bs.take 80)).putReg (.data 1)
      ((s.x (.data 1)).extractLsb' 16 16 ++ BitVec.ofNat 16 (bs.take 80).length) .W

/-- What the result of an answer records, with the old values (log 13). -/
def answerMutations (s : State) : InterruptResult → List Mutation
  | .displayStringWithCRLF | .displayStringWithoutCRLF | .displayNumber | .displayChar => []
  | .readNumber _ | .getTime _ => [.writeRegister (.data 1) (s.x (.data 1)) .L]
  | .readChar _ => [.writeRegister (.data 1) (s.x (.data 1)) .B]
  | .readKeyboardString bs =>
    [.writeMemoryBytes (s.x (.addr 1)) (s.mem.readBytes (s.x (.addr 1)).toNat (bs.take 80).length),
      .writeRegister (.data 1) (s.x (.data 1)) .W]

section
variable (s : State) (addr : Word) (bs : List Byte)

@[simp] theorem storeBytes_x (r : Reg) : (s.storeBytes addr bs).x r = s.x r := by cases r <;> rfl

@[simp] theorem storeBytes_openEntry : (s.storeBytes addr bs).openEntry =
    s.openEntry ++ [.writeMemoryBytes addr (s.mem.readBytes addr.toNat bs.length)] := rfl

theorem onlyChanges_storeBytes : OnlyChanges s (s.storeBytes addr bs) [] (within addr bs.length) := by
  refine ⟨fun _ _ => storeBytes_x .., fun b hb => readByte_writeBytes_outside ?_, rfl, rfl, rfl, rfl, rfl, rfl, rfl, rfl,
    rfl⟩
  unfold within at hb
  omega

end

theorem applyResult_eq_ok {r : InterruptResult} {s : State}
    (h : ∀ bs, r = .readKeyboardString bs → s.inBounds (s.x (.addr 1)) (bs.take 80).length = true) :
    applyResult r s = .ok (s.answered r) := by
  cases r with
  | readKeyboardString bs =>
    have hwrite := memWriteBytes_eq_ok.2 ⟨h bs rfl, rfl⟩
    refine (bind_of_ok hwrite _).trans (regWrite_eq_ok.2 ⟨rfl, ?_⟩)
    rw [storeBytes_x]
    rfl
  | _ => rfl

/-- The bytes the result of an answer writes: a keyboard string at `A1`. -/
def answerCovers (s : State) : InterruptResult → Nat → Prop
  | .readKeyboardString bs => within (s.x (.addr 1)) (bs.take 80).length
  | _ => noByte

theorem onlyChanges_answered (s : State) (r : InterruptResult) :
    OnlyChanges s (s.answered r) [.data 1] (answerCovers s r) := by
  cases r with
  | readKeyboardString bs =>
    exact onlyChanges_mono (onlyChanges_trans (onlyChanges_storeBytes ..) (onlyChanges_putReg ..)) (by simp)
      (by simp [answerCovers, noByte])
  | readNumber _ | getTime _ | readChar _ => exact onlyChanges_putReg ..
  | _ => exact onlyChanges_mono (onlyChanges_refl s) nofun fun _ => id

theorem answered_keeps (s : State) (r : InterruptResult) :
    (s.answered r).pc = s.pc ∧ (s.answered r).flags = s.flags ∧ (s.answered r).callStack = s.callStack := by
  cases r <;> exact ⟨rfl, rfl, rfl⟩

theorem answered_openEntry (s : State) (r : InterruptResult) :
    (s.answered r).openEntry = s.openEntry ++ answerMutations s r := by
  cases r <;> simp [State.answered, answerMutations]

/-! ## Taking the answer (R302, R304, R305) -/

section
variable {s t : State} {record : Interrupt} {r : InterruptResult} (hs : s.status = .interrupt)
  (hr : s.curInterrupt = some record)
include hs hr

theorem answerInterrupt_accepts (htag : tagMatches r record = true) (ht : applyResult r s = .ok t) :
    answerInterrupt r s = (finishAnswer s t, .accepted) := by
  simp [answerInterrupt, hs, hr, htag, ht]

theorem answerInterrupt_faults {f : Fault} (htag : tagMatches r record = true) (hf : applyResult r s = .error (.raise f)) :
    answerInterrupt r s = (takeFault f s, .faulted f) := by
  simp [answerInterrupt, hs, hr, htag, hf]

theorem answerInterrupt_mismatch (htag : tagMatches r record = false) :
    answerInterrupt r s = (s, .rejected .interruptMismatch) := by
  simp [answerInterrupt, hs, hr, htag]

end

theorem answerInterrupt_notInterrupt {s : State} (hs : s.status ≠ .interrupt) (r : InterruptResult) :
    answerInterrupt r s = (s, .notInterrupt) := if_neg hs

/-- Settles O58: the mismatch and the status are tested before the result is applied, and its only fault is that of the
store. -/
theorem answerTurnedAway : Obligations.AnswerTurnedAway := by
  refine ⟨fun s record r hs hr htag => answerInterrupt_mismatch hs hr htag,
    fun s r hs => answerInterrupt_notInterrupt hs r, fun s bs hs hr hout => ?_⟩
  have hwrite : memWriteBytes (s.x (.addr 1)) (bs.take 80) s = .error (.raise .addressOutOfBounds) :=
    if_neg (Bool.eq_false_iff.1 hout)
  exact answerInterrupt_faults hs hr rfl (bind_of_error hwrite _)

section
variable (s t : State)

@[simp] theorem finishAnswer_x (r : Reg) : (finishAnswer s t).x r = t.x r := by
  rw [finishAnswer, endCheck_x]
  cases r <;> rfl

@[simp] theorem finishAnswer_mem : (finishAnswer s t).mem = t.mem := by simp [finishAnswer]

@[simp] theorem finishAnswer_pc : (finishAnswer s t).pc = t.pc := by simp [finishAnswer]

@[simp] theorem finishAnswer_flags : (finishAnswer s t).flags = t.flags := by simp [finishAnswer]

@[simp] theorem finishAnswer_callStack : (finishAnswer s t).callStack = t.callStack := by simp [finishAnswer]

@[simp] theorem finishAnswer_reason : (finishAnswer s t).reason = t.reason := by simp [finishAnswer]

@[simp] theorem finishAnswer_curInterrupt : (finishAnswer s t).curInterrupt = none := by simp [finishAnswer]

@[simp] theorem finishAnswer_undone : (finishAnswer s t).undone = t.undone := by simp [finishAnswer]

@[simp] theorem finishAnswer_answers : (finishAnswer s t).answers = t.answers := by simp [finishAnswer]

@[simp] theorem finishAnswer_program : (finishAnswer s t).program = t.program := by simp [finishAnswer]

@[simp] theorem finishAnswer_options : (finishAnswer s t).options = t.options := by simp [finishAnswer]

@[simp] theorem finishAnswer_openEntry : (finishAnswer s t).openEntry = s.openEntry := by simp [finishAnswer]

theorem finishAnswer_status :
    (finishAnswer s t).status = if t.pc.toNat = instrEnd t.program then .terminated else .running := by
  simp [finishAnswer, endCheck_status]

theorem finishAnswer_reachedBottom :
    (finishAnswer s t).reachedBottom = (t.reachedBottom || decide (t.pc.toNat = instrEnd t.program)) := by
  by_cases h : t.pc.toNat = instrEnd t.program <;> simp [finishAnswer, endCheck_reachedBottom, h]

/-- The mutations recorded after those of `s` go to the newest entry (log 15). -/
theorem finishAnswer_history {ms : List Mutation} (h : t.openEntry = s.openEntry ++ ms) :
    (finishAnswer s t).history = appendToLast ms t.history := by
  simp [finishAnswer, h]

end

/-- Settles O57: the answer is `State.answered`, and `finishAnswer` only frees the slot, sets the status and files the
mutations. -/
theorem answerAccepted : Obligations.AnswerAccepted := by
  intro s record r hs hr htag hin
  obtain ⟨hpc, hflags, hcalls⟩ := answered_keeps s r
  have hchange := onlyChanges_answered s r
  refine ⟨_, answerInterrupt_accepts hs hr htag (applyResult_eq_ok hin), by simp, by simp [hpc], by simp [hflags], ?status,
    ?bottom, fun x hx => ?regs, by simp [hcalls], by simp [hchange.program], by simp [hchange.options],
    by simp [hchange.reason], by simp [hchange.undone], by simp [hchange.answers], by simp,
    ⟨answerMutations s r, ?history, ?mutations⟩, ?result⟩
  case status => rw [finishAnswer_status, hpc, hchange.program]
  case bottom => rw [finishAnswer_reachedBottom, hpc, hchange.program, hchange.reachedBottom]
  case regs => rw [finishAnswer_x, hchange.regs x (List.mem_singleton.not.2 hx)]
  case history => rw [finishAnswer_history _ _ (answered_openEntry s r), hchange.history]
  case mutations =>
    cases r with
    | readKeyboardString bs => simp [answerMutations, Nat.min_comm]
    | _ => rfl
  case result =>
    rw [finishAnswer_x, finishAnswer_mem]
    cases r with
    | readKeyboardString bs =>
      have hlen : (bs.take 80).length = min bs.length 80 := by rw [List.length_take, Nat.min_comm]
      dsimp only
      rw [← hlen]
      exact ⟨by simp [State.answered], readBytes_writeBytes .., hchange.bytes⟩
    | readNumber _ | getTime _ | readChar _ => exact ⟨by simp [State.answered], rfl⟩
    | _ => exact ⟨rfl, rfl⟩

end Sys2Proof.Machine
end

section
/-! SUPPORT. Steps outside status Running, the history entry of a step, and a checked program (R130, R318, R325 to R328,
R361). -/

namespace Sys2Proof.Machine

/-! ## Outside status Running -/

section
variable {s : State} (hu : s.undone = false)
include hu

theorem step_ended (hs : s.status = .terminated ∨ s.status = .terminatedWithException) : step s = .next s := by
  rcases hs with hs | hs <;> simp [step, hostStep, hu, hs, engineStep]

theorem step_unanswered (hs : s.status = .interrupt) (ha : s.answers = []) :
    step s = .next (takeFault .unansweredInterrupt s) := by
  simp [step, hostStep, hu, hs, ha, engineStep]

theorem step_answered {r : InterruptResult} {rest : List InterruptResult} (hs : s.status = .interrupt)
    (ha : s.answers = r :: rest) : step s = .next (answerInterrupt r { s with answers := rest }).1 := by
  simp [step, hostStep, hu, hs, ha]

end

/-- Settles O12: each status has its equation of `step` and of `stepReply`. -/
theorem stepOutsideRunning : Obligations.StepOutsideRunning := by
  refine ⟨fun s hu hs => ⟨step_ended hu hs, ?ended⟩, fun s hu hs ha => ⟨?unanswered, step_unanswered hu hs ha⟩,
    fun s r rest hu hs ha => step_answered hu hs ha⟩
  case ended => rcases hs with hs | hs <;> simp [stepReply, hs]
  case unanswered => simp [stepReply, hs]

/-! ## The history entry -/

theorem closeEntry_history (p : Word) (l : Nat) (s : State) : (closeEntry p l s).history =
    if s.options.keepHistory then
      ({ pcBefore := p, mutations := s.openEntry, lineIndex := l } :: s.history).take s.options.historySize
    else s.history := rfl

/-- Settles O18: an entry that executes, fault or not, leaves the history alone until its own entry is closed. -/
theorem historyPolicy : Obligations.HistoryPolicy := by
  intro s t line hs hf h
  obtain ⟨u, rfl, hu⟩ := step_of_line hs hf h
  obtain ⟨hhist, hopt⟩ : u.history = s.history ∧ u.options = s.options := by
    rcases hu with rfl | ⟨i, -, hx⟩
    · exact ⟨rfl, rfl⟩
    · obtain ⟨hhist, -, -, -, hopt⟩ := exec_keeps hx
      exact ⟨hhist, hopt⟩
  rw [endCheck_history, closeEntry_history, hhist, hopt]
  exact ⟨fun hk => ⟨u.openEntry, if_pos hk⟩, fun hk => if_neg (Bool.eq_false_iff.1 hk)⟩

/-! ## A checked program -/

/-- Taking an answer sets no mark of `undo` and leaves the answers still to give. -/
theorem answerInterrupt_keepsHost (r : InterruptResult) (s : State) :
    (answerInterrupt r s).1.undone = s.undone ∧ (answerInterrupt r s).1.answers = s.answers := by
  rcases answerInterrupt_cases r s with ⟨_, t, -, -, -, -, hw, he⟩ | ⟨_, -, -, -, -, he⟩ | ⟨_, he⟩ <;> rw [he]
  · obtain ⟨-, -, -, -, -, hundone, hanswers, -⟩ := writes_control hw
    simp [hundone, hanswers]
  · exact ⟨rfl, rfl⟩
  · exact ⟨rfl, rfl⟩

/-- A step sets no mark of `undo`, and takes an answer from the queue exactly when it gives it (log 11, 16). -/
theorem step_keepsHost {s t : State} (h : step s = .next t) :
    t.undone = false ∧ t.answers = if s.status = .interrupt then s.answers.tail else s.answers := by
  obtain ⟨hu, ⟨hs, rfl⟩ | ⟨hs, rfl⟩ | ⟨hs, ha, rfl⟩ | ⟨r, rest, hs, ha, rfl⟩ | ⟨hs, -, rfl⟩ | ⟨line, hs, -, -, rfl⟩ |
    ⟨line, i, u, hs, -, -, hx, rfl⟩⟩ := step_cases h
  · simp [hu, hs]
  · simp [hu, hs]
  · simp [hu, ha]
  · obtain ⟨hundone, hanswers⟩ := answerInterrupt_keepsHost r { s with answers := rest }
    rw [hundone, hanswers, ha, if_pos hs]
    exact ⟨hu, rfl⟩
  · simp [hu, hs]
  · simp [hu, hs]
  · obtain ⟨-, hundone, hanswers, -⟩ := exec_keeps hx
    simp [hundone, hanswers, hu, hs]

theorem fetch_mem {s : State} {line : InstructionLine} (h : fetch s = some line) : line ∈ s.program.lines := by
  unfold fetch at h
  split at h
  · exact List.mem_of_getElem? h
  · cases h

/-- An entry the checker accepts decodes to an admitted form (R361 (a)). -/
theorem checked_decodes {e : Entry} (h : e.checked = true) : ∃ i, decode e = .ok i ∧ i.wellFormed = true := by
  unfold Entry.checked at h
  split at h
  · exact ⟨_, ‹_›, h⟩
  · cases h

/-- An engine with a checked program that no `undo` has touched always steps. -/
theorem checked_steps {s : State} (hc : s.program.checked = true) (hu : s.undone = false) : ∃ t, step s = .next t := by
  cases hs : s.status with
  | terminated => exact ⟨s, step_ended hu (.inl hs)⟩
  | terminatedWithException => exact ⟨s, step_ended hu (.inr hs)⟩
  | interrupt =>
    cases ha : s.answers with
    | nil => exact ⟨_, step_unanswered hu hs ha⟩
    | cons r rest => exact ⟨_, step_answered hu hs ha⟩
  | running =>
    cases hf : fetch s with
    | none => exact ⟨_, step_without_entry hu hs hf⟩
    | some line =>
      obtain ⟨i, hd, hw⟩ := checked_decodes (List.all_eq_true.1 hc line (fetch_mem hf))
      rcases admitted_exec hw s with ⟨u, -, hx⟩ | ⟨f, -, hx⟩
      · exact ⟨_, step_runs hu hs hf hd hx⟩
      · exact ⟨_, step_runs hu hs hf hd hx⟩

/-- A step keeps the program and the absence of the mark of `undo`, so the loop steps on. -/
theorem checked_runLoop (n : Nat) {s : State} (hc : s.program.checked = true) (hu : s.undone = false) :
    ∃ t, runLoop n s = .next t ∧ t.program = s.program := by
  induction n generalizing s with
  | zero => exact ⟨s, rfl, rfl⟩
  | succ n ih =>
    by_cases hs : s.status = .running
    · obtain ⟨u, hstep⟩ := checked_steps hc hu
      obtain ⟨hprog, -⟩ := programConstant s u hstep
      obtain ⟨t, ht, hsame⟩ := ih (hprog ▸ hc) (step_keepsHost hstep).1
      exact ⟨t, (runLoop_step hs hstep n).trans ht, hsame.trans hprog⟩
    · exact ⟨s, runLoop_ended hs _, rfl⟩

/-- Settles O16: the loop always steps on; outside status Running the call answers at once. -/
theorem checkedProgramRuns : Obligations.CheckedProgramRuns := by
  intro n s hc hu
  by_cases hi : s.status = .interrupt
  · exact ⟨_, callRun_interrupt hu hi, rfl, nofun⟩
  · obtain ⟨t, ht, hprog⟩ := checked_runLoop n hc hu
    refine ⟨t, (callRun_loop hu hi).trans ht, hprog, fun hrun => ?_⟩
    by_contra hs
    rw [runLoop_ended hs] at ht
    cases ht
    exact hs hrun

end Sys2Proof.Machine
end

section
/-! SUPPORT. The run variants, and the run of the engine together with its host (R325, R330, R363, R366). -/

namespace Sys2Proof.Machine

/-! ## Calls of two loops -/

section
variable {loop loop' : State → Result} {s : State}

/-- Where the loops agree, their calls do. -/
theorem callRun_congr (h : s.undone = false → s.status ≠ .interrupt → loop s = loop' s) :
    callRun loop s = callRun loop' s := by
  cases hu : s.undone with
  | true => rw [callRun_undone hu, callRun_undone hu]
  | false =>
    by_cases hi : s.status = .interrupt
    · rw [callRun_interrupt hu hi, callRun_interrupt hu hi]
    · rw [callRun_loop hu hi, callRun_loop hu hi, h hu hi]

/-- Where one loop answers what the other does, so does its call. -/
theorem callRun_next {t : State} (h : loop s = .next t → loop' s = .next t) (hr : callRun loop s = .next t) :
    callRun loop' s = .next t := by
  cases hu : s.undone with
  | true => exact absurd ((callRun_undone hu).symm.trans hr) nofun
  | false =>
    by_cases hi : s.status = .interrupt
    · rwa [callRun_interrupt hu hi] at hr ⊢
    · rw [callRun_loop hu hi] at hr ⊢
      exact h hr

end

/-! ## The loops, run on -/

/-- A loop that answered a state goes on from it. -/
theorem breakLoop_add {bps : List Word} {n : Nat} {s t : State} (h : breakLoop bps n s = .next t) (m : Nat) :
    breakLoop bps (n + m) s = breakLoop bps m t := by
  induction n generalizing s with
  | zero => cases h; rw [Nat.zero_add]
  | succ n ih =>
    by_cases hhalt : s.status ≠ .running ∨ s.pc ∈ bps
    · rw [breakLoop_halted hhalt] at h ⊢
      cases h
      exact (breakLoop_halted hhalt m).symm
    · obtain ⟨hs, hpc⟩ := not_or.1 hhalt
      rw [Nat.succ_add]
      simp only [breakLoop, not_not.1 hs, List.contains_eq_mem, hpc] at h ⊢
      cases hstep : step s with
      | next u => simp only [hstep] at h ⊢; exact ih h
      | fault f => simp only [hstep] at h; cases h
      | refused r => simp only [hstep] at h; cases h

theorem runLoop_eq_breakLoop (n : Nat) (s : State) : runLoop n s = breakLoop [] n s :=
  (breakLoop_eq_runLoop fun _ _ _ _ => List.not_mem_nil).symm

/-- A loop that ended is the same for every larger limit. -/
theorem runLoop_add {n : Nat} {s t : State} (h : runLoop n s = .next t) (ht : t.status ≠ .running) (m : Nat) :
    runLoop (n + m) s = .next t := by
  rw [runLoop_eq_breakLoop] at h ⊢
  rw [breakLoop_add h, breakLoop_halted (.inl ht)]

/-! ## The loop of `runWithBreakpoints` -/

/-- One turn with no test for a breakpoint, then a loop for the rest of the limit (log 18). -/
def firstTurn (loop : Nat → State → Result) : Nat → State → Result
  | 0, s => .next s
  | n + 1, s =>
    if s.status = .running then
      match step s with
      | .next t => loop n t
      | .fault f => .fault f
      | .refused r => .refused r
    else .next s

/-- What the loop of `runWithBreakpoints` does, whether or not a breakpoint on the first instruction halts it. -/
structure BreaksAt (bps : List Word) (loop : Nat → State → Result) : Prop where
  ended : ∀ (n : Nat) (s : State), s.status ≠ .running → loop n s = .next s
  agrees : ∀ (n : Nat) (s : State), (∀ j < n, ∀ u, runLoop j s = .next u → u.pc ∉ bps) → loop n s = runLoop n s
  halts : ∀ (n m : Nat) (s t : State), loop (n + 1) s = .next t → t.status ≠ .running ∨ t.pc ∈ bps →
    loop (n + 1 + m) s = .next t

theorem breakLoop_breaksAt (bps : List Word) : BreaksAt bps (breakLoop bps) where
  ended n _ hs := breakLoop_halted (.inl hs) n
  agrees _ _ h := breakLoop_eq_runLoop h
  halts _ m _ _ h hhalt := (breakLoop_add h m).trans (breakLoop_halted hhalt m)

/-- With no breakpoint at the first instruction the test that is left out changes nothing. -/
theorem firstTurn_eq_breakLoop {bps : List Word} {s : State} (h : s.pc ∉ bps) (n : Nat) :
    firstTurn (breakLoop bps) n s = breakLoop bps n s := by
  cases n with
  | zero => rfl
  | succ n => cases hstep : step s <;> simp [firstTurn, breakLoop, h, hstep]

theorem firstTurn_breaksAt (bps : List Word) : BreaksAt bps (firstTurn (breakLoop bps)) where
  ended n s hs := by
    cases n with
    | zero => rfl
    | succ n => exact if_neg hs
  agrees n s h := by
    cases n with
    | zero => rfl
    | succ n => rw [firstTurn_eq_breakLoop (h 0 n.succ_pos s rfl), breakLoop_eq_runLoop h]
  halts n m s t h hhalt := by
    rw [Nat.succ_add]
    by_cases hs : s.status = .running
    · simp only [firstTurn, if_pos hs] at h ⊢
      cases hstep : step s with
      | next u =>
        simp only [hstep] at h ⊢
        exact (breakLoop_add h m).trans (breakLoop_halted hhalt m)
      | fault f => simp only [hstep] at h; cases h
      | refused r => simp only [hstep] at h; cases h
    · simp only [firstTurn, if_neg hs] at h ⊢
      exact h

/-- The call of `runWithBreakpoints` is that of one such loop, which one is free (log 18). -/
theorem runWithBreakpoints_loop (bps : List Word) :
    ∃ loop, BreaksAt bps loop ∧ ∀ n s, runWithBreakpoints bps n s = callRun (loop n) s := by
  cases hfirst : Config.breakpointOnFirst with
  | true => exact ⟨_, breakLoop_breaksAt bps, fun n s => callRun_congr fun _ _ => if_pos hfirst⟩
  | false =>
    refine ⟨_, firstTurn_breaksAt bps, fun n s => callRun_congr fun _ _ => ?_⟩
    rw [if_neg (by simp [hfirst])]
    cases n <;> rfl

/-! ## The run variants -/

section
variable {s t : State}

theorem runWithLimit_add {n : Nat} (h : runWithLimit n s = .next t) (ht : t.status ≠ .running) (m : Nat) :
    runWithLimit (n + m) s = .next t :=
  callRun_next (fun hl => runLoop_add hl ht m) h

theorem runWithBreakpoints_add {bps : List Word} {n : Nat} (h : runWithBreakpoints bps (n + 1) s = .next t)
    (ht : t.status ≠ .running ∨ t.pc ∈ bps) (m : Nat) : runWithBreakpoints bps (n + 1 + m) s = .next t := by
  obtain ⟨loop, hloop, hcall⟩ := runWithBreakpoints_loop bps
  rw [hcall] at h ⊢
  exact callRun_next (fun hl => hloop.halts n m s t hl ht) h

/-- A run that meets no breakpoint is the run without them. -/
theorem runWithBreakpoints_eq_runWithLimit {bps : List Word} {n : Nat}
    (h : ∀ j < n, ∀ u, runWithLimit j s = .next u → u.pc ∉ bps) : runWithBreakpoints bps n s = runWithLimit n s := by
  obtain ⟨loop, hloop, hcall⟩ := runWithBreakpoints_loop bps
  rw [hcall]
  exact callRun_congr fun hu hi => hloop.agrees n s fun j hj u hl => h j hj u ((callRun_loop hu hi).trans hl)

theorem runsTo_unique {t' : State} (h : RunsTo s t) (h' : RunsTo s t') : t = t' := by
  obtain ⟨n, hn, ht⟩ := h
  obtain ⟨m, hm, ht'⟩ := h'
  have hlong := runWithLimit_add hm ht' n
  rw [Nat.add_comm, runWithLimit_add hn ht m] at hlong
  cases hlong
  rfl

theorem runsToBreakpoint_unique {bps : List Word} {t' : State} (h : RunsToBreakpoint bps s t)
    (h' : RunsToBreakpoint bps s t') : t = t' := by
  obtain ⟨n, hn, ht⟩ := h
  obtain ⟨m, hm, ht'⟩ := h'
  have hlong := runWithBreakpoints_add hm ht' (n + 1)
  rw [Nat.add_comm, runWithBreakpoints_add hn ht (m + 1)] at hlong
  cases hlong
  rfl

end

/-! ## The run with the host (R363, log 11, 34) -/

/-- Everything a run of the engine with its host can answer for one call more. -/
theorem hostRun_succ_eq_next {n : Nat} {s : State} {r : RunResult} :
    hostRun (n + 1) s = .next r ↔
      (hasTerminated s = true ∧ r = { state := s, exchanges := [] }) ∨
        (hasTerminated s = false ∧ ∃ t r', step s = .next t ∧ hostRun n t = .next r' ∧
          r = { r' with exchanges := (exchangeOf s).toList ++ r'.exchanges }) := by
  cases hterm : hasTerminated s with
  | true => simp [hostRun, hterm, eq_comm]
  | false =>
    cases hstep : step s with
    | next t => cases hrun : hostRun n t <;> simp [hostRun, hterm, hstep, hrun, eq_comm]
    | fault f => simp [hostRun, hterm, hstep]
    | refused e => simp [hostRun, hterm, hstep]

theorem hostRun_ended {s : State} (h : hasTerminated s = true) (n : Nat) :
    hostRun n s = .next { state := s, exchanges := [] } := by
  cases n with
  | zero => rfl
  | succ n => exact if_pos h

/-- A run that has ended is the same for every larger number of calls. -/
theorem hostRun_add {n : Nat} {s : State} {r : RunResult} (h : hostRun n s = .next r)
    (hr : hasTerminated r.state = true) (m : Nat) : hostRun (n + m) s = .next r := by
  induction n generalizing s r with
  | zero => cases h; exact hostRun_ended hr _
  | succ n ih =>
    rw [Nat.succ_add, hostRun_succ_eq_next]
    rcases hostRun_succ_eq_next.1 h with hend | ⟨hgoes, t, r', hstep, hrun, rfl⟩
    · exact .inl hend
    · exact .inr ⟨hgoes, t, r', hstep, ih hrun hr, rfl⟩

/-- The answers the host gave in a list of exchanges. -/
def givenAnswers (es : List Exchange) : List InterruptResult := es.filterMap fun e => e.answer.map Prod.fst

/-- The exchange of a call shows the answer the call takes from the queue; the slot is filled in status Interrupt (R32). -/
theorem givenAnswers_exchangeOf {s t : State} (hinv : Inv s) (h : step s = .next t) :
    givenAnswers (exchangeOf s).toList ++ t.answers = s.answers := by
  obtain ⟨-, hanswers⟩ := step_keepsHost h
  rw [hanswers]
  by_cases hs : s.status = .interrupt
  · obtain ⟨record, hr⟩ := Option.isSome_iff_exists.1 (hinv.slotFilled.1 hs)
    cases ha : s.answers <;> simp [exchangeOf, hs, hr, ha, givenAnswers]
  · simp [exchangeOf, hs, givenAnswers]

/-- The answers given and those still to give are the host's answers in order. -/
theorem hostRun_answers {n : Nat} {s : State} {r : RunResult} (hinv : Inv s) (h : hostRun n s = .next r) :
    givenAnswers r.exchanges ++ r.state.answers = s.answers := by
  induction n generalizing s r with
  | zero => cases h; rfl
  | succ n ih =>
    rcases hostRun_succ_eq_next.1 h with ⟨-, rfl⟩ | ⟨-, t, r', hstep, hrun, rfl⟩
    · rfl
    · calc givenAnswers ((exchangeOf s).toList ++ r'.exchanges) ++ r'.state.answers
          = givenAnswers (exchangeOf s).toList ++ (givenAnswers r'.exchanges ++ r'.state.answers) := by
            simp [givenAnswers]
        _ = givenAnswers (exchangeOf s).toList ++ t.answers := by rw [ih (stepKeepsInv s t hinv hstep) hrun]
        _ = s.answers := givenAnswers_exchangeOf hinv hstep

/-- Settles O60: outside status Running every loop answers at once, and a loop that has halted stays where it is. -/
theorem runVariants : Obligations.RunVariants := by
  refine ⟨fun n bps s hu hs => ?ended, fun n bps s hu hs => ?interrupted, fun n m s t h ht => runWithLimit_add h ht m,
    fun n bps s h => runWithBreakpoints_eq_runWithLimit h, fun k m bps s t hk hfree h _ hpc => ?halts,
    fun s t t' => runsTo_unique, fun bps s t t' => runsToBreakpoint_unique, fun n m s r h hr => hostRun_add h hr m,
    fun n s r => hostRun_answers⟩
  case ended =>
    have hrun : s.status ≠ .running := by rcases hs with hs | hs <;> simp [hs]
    have hi : s.status ≠ .interrupt := by rcases hs with hs | hs <;> simp [hs]
    obtain ⟨loop, hloop, hcall⟩ := runWithBreakpoints_loop bps
    rw [hcall, runWithLimit, callRun_loop hu hi, callRun_loop hu hi]
    exact ⟨runLoop_ended hrun n, hloop.ended n s hrun⟩
  case interrupted => exact ⟨callRun_interrupt hu hs, callRun_interrupt hu hs⟩
  case halts =>
    obtain ⟨n, rfl⟩ := Nat.exists_eq_succ_of_ne_zero hk.ne'
    exact runWithBreakpoints_add ((runWithBreakpoints_eq_runWithLimit hfree).trans h) (.inr hpc) m

end Sys2Proof.Machine
end
